-- ==== Sys2Proof/Word.lean ====
section
/-! DEFINITION. The widths of packet_header_parser's fields (spec/00_scope.md R8, R9): bytes, 16-bit and 32-bit
words. Byte order is decided in Decode.lean (`leValue`, `leBytes`), where a repair can reach it. -/

namespace Sys2Proof

/-- A byte is 8 bits (R13). -/
abbrev Byte := BitVec 8

/-- The width of bodyLength and of the first reserved field (R8). -/
abbrev Half := BitVec 16

/-- The width of the other header fields (R8), of `IN_LEN` and of a window offset (R9). -/
abbrev Word := BitVec 32

end Sys2Proof
end

