-- ==== Sys2Proof/Config.lean ====
section
/-! DEFINITION. The build-time parameters of the block (spec/00_scope.md R5 to R12, spec/92_eei_decisions.md D27,
D4, D5; spec/93_implementation_defined.md I1, I2, I13) and the free values the model draws for registers that
"hold no value". -/

namespace Sys2Proof

/-- What PREFIX_READ does when the prefix byte is not in the window (I1, "parameter PREFIX_FAIL"). -/
inductive PrefixFail where
  /-- Fail closed (D5, the default). -/
  | insufficientData
  /-- "treat as a no-op/zero-length body rather than propagating an error" (R170). -/
  | zeroBody
deriving DecidableEq, Repr

/-- The named parameters. `LEN_W = 32` and `BODY_CAP = 255` are the widths of the fields of State that hold
`IN_LEN` and `B_DATA` (R9, R10) and are not repeated here. -/
structure Config where
  /-- `HDR_LEN` (R5). -/
  hdrLen : Nat
  /-- `MAGIC` (R6). -/
  magic : Word
  /-- `MAX_BODY` (R7). -/
  maxBody : Nat
  /-- `CMD_HEARTBEAT` (R11). -/
  cmdHeartbeat : Word
  /-- `CMD_ECHO` (R11). -/
  cmdEcho : Word
  /-- `BL0_WRAPS` (D4, I2): bodyLength - 1 is computed in 16-bit wrap-around arithmetic. -/
  bl0Wraps : Bool
  /-- `PREFIX_FAIL` (I1). -/
  prefixFail : PrefixFail
deriving DecidableEq, Repr

/-- The parameters with the document's values, taken as normative (R5 to R7, R11, D4, D5, D27). Log 26. -/
def config : Config where
  hdrLen := 32
  magic := 0x20160905#32
  maxBody := 254
  cmdHeartbeat := 0#32
  cmdEcho := 1#32
  bl0Wraps := true
  prefixFail := .insufficientData

/-- `BODY_CAP` (R10): the capacity of `B_DATA` in bytes. -/
def bodyCap : Nat := 255

/-- FREE VALUE: the bits a result register stores after a result write that gives it "no value" (R102, R103;
"Real hardware returns some unspecified value there", R36). The first argument is the draw (State's counter), the
second says which register. Two numbers are no register's: 11 is the count an ADVANCE takes while `RES_CONSUMED` holds no value
(log 27), 12 the `IN_LEN` after an ADVANCE past the window's end (log 15). Nothing constrains the values. Log 5. -/
opaque Config.freeValue : Nat → Nat → BitVec 32

end Sys2Proof
end

