-- ==== Sys2Proof/Syntax.lean ====
section
/-! DEFINITION. The operations of packet_header_parser: one constructor per row of spec/opcode_table.json
(spec/30_encoding.md R88, R92). The block has no register operand and no immediate (R87); a deserializer primitive
takes a window offset, and the residual row CMD_UNKNOWN carries the command value it stands for. -/

namespace Sys2Proof

/-- The 20 rows of the operation map (R88). -/
inductive Instr where
  /-- DECODE: the one external operation (R100). -/
  | decode
  /-- HDR_AVAIL_CHECK (R151). -/
  | hdrAvailCheck
  /-- DESER_HEADER (R124). -/
  | deserHeader
  /-- MAGIC_CHECK (R140). -/
  | magicCheck
  /-- BODY_AVAIL_CHECK (R152). -/
  | bodyAvailCheck
  /-- SIZE_CHECK (R153). -/
  | sizeCheck
  /-- PREFIX_READ (R170). -/
  | prefixRead
  /-- BODY_EXTRACT (R171). -/
  | bodyExtract
  /-- CONSUMED_CALC (R172). -/
  | consumedCalc
  /-- CMD_CLASSIFY (R173). -/
  | cmdClassify
  /-- SUCCESS_WRITE (R102). -/
  | successWrite
  /-- ERROR_WRITE (R103). -/
  | errorWrite
  /-- LE_U8(a) (R120). -/
  | leU8 (a : Word)
  /-- LE_U16(a) (R121). -/
  | leU16 (a : Word)
  /-- LE_U32(a) (R122). -/
  | leU32 (a : Word)
  /-- LE_S32(a) (R123). -/
  | leS32 (a : Word)
  /-- PKT_MAGIC: the accepting pattern of the magic gate (R140, R88). -/
  | pktMagic
  /-- CMD_HEARTBEAT: command 0 (R173). -/
  | cmdHeartbeat
  /-- CMD_ECHO: command 1 (R173). -/
  | cmdEcho
  /-- CMD_UNKNOWN: any other command c (R173; "residual row"). -/
  | cmdUnknown (c : Word)
deriving DecidableEq, Repr

end Sys2Proof
end

