-- ==== Sys2Proof/WellFormed.lean ====
section
/-! DEFINITION. Which instructions the encodings of spec/30_encoding.md can write. The one static check is the
residual row's: CMD_UNKNOWN "applies only when neither CMD_HEARTBEAT nor CMD_ECHO matches" (R84, R173). Whether a
primitive's offset is inside the window is a matter of the state, not of the syntax (R120 to R123). -/

namespace Sys2Proof

/-- The check, constructor by constructor. -/
def Instr.wellFormed : Instr → Bool
  | .decode => true
  | .hdrAvailCheck => true
  | .deserHeader => true
  | .magicCheck => true
  | .bodyAvailCheck => true
  | .sizeCheck => true
  | .prefixRead => true
  | .bodyExtract => true
  | .consumedCalc => true
  | .cmdClassify => true
  | .successWrite => true
  | .errorWrite => true
  | .leU8 _ => true
  | .leU16 _ => true
  | .leU32 _ => true
  | .leS32 _ => true
  | .pktMagic => true
  | .cmdHeartbeat => true
  | .cmdEcho => true
  | .cmdUnknown c => c != config.cmdHeartbeat && c != config.cmdEcho

/-- The instruction is one the encodings can write. -/
abbrev WellFormed (i : Instr) : Prop := i.wellFormed = true

end Sys2Proof
end

