-- ==== Sys2Proof/Decode.lean ====
section
/-! DEFINITION. Decoding and encoding of the five code spaces (spec/30_encoding.md R82, R85, R86, R88; the column
"format" of spec/opcode_table.json), byte order (spec/20_memory.md R54), and the table's own words.

Layout of an operation word, the first byte at the lowest offset:
* REQ: one byte, START in bit 0.
* PHASE: the phase code in bits 3..0 of the first byte; a second byte numbers the micro-operation within the phase,
  which only FINISH looks at (R85 gives three micro-operations one code; log 9).
* PRIM: the select code in bits 1..0 of the first byte, then the window offset a in four bytes.
* HDR.magic, HDR.command: the four wire bytes of the header field.
Bits of a first byte above a code's width are no bits of that code and are not looked at (the table's masks). -/

namespace Sys2Proof

/-- The number the bytes stand for, least significant first (R54). Log 18. -/
def leValue : List Byte → Nat
  | [] => 0
  | b :: bs => b.toNat + 256 * leValue bs

/-- The n bytes of a number, least significant first (R81 `LEn`). -/
def leBytes : Nat → Nat → List Byte
  | 0, _ => []
  | n + 1, v => BitVec.ofNat 8 v :: leBytes n (v / 256)

/-- The code spaces: where the bits of an operation word stand. -/
inductive Format where
  /-- The request port START (R82). -/
  | req
  /-- The phase register PHASE (R85). -/
  | phase
  /-- The deserializer's select code and its offset operand (R86). -/
  | prim
  /-- The header's magic field (R88, R140). -/
  | magic
  /-- The header's command field (R88, R173). -/
  | command
deriving DecidableEq, Repr

/-- Why a word is no operation. -/
inductive Reject where
  /-- Fewer bytes than the format has. -/
  | truncated
  /-- START = 0: "IDLE | otherwise | IDLE" (R150). -/
  | noRequest
  /-- PHASE 0: "none; waits for START" (R85). -/
  | idlePhase
  /-- PHASE 10 to 15: "(reserved)" (R85). -/
  | reservedPhase
  /-- FINISH has three micro-operations, numbered 0 to 2 (log 9). -/
  | noSuchMicroOp
  /-- A magic field other than MAGIC (R89 point 1). -/
  | illegalMagic
deriving DecidableEq, Repr

/-- REQ: START = 1 requests DECODE (R82). -/
def decodeReq (b : Byte) : Except Reject Instr :=
  if b.getLsbD 0 then .ok .decode else .error .noRequest

/-- PHASE: the micro-operation a phase selects (R85); k numbers it within FINISH. -/
def decodePhase (p : BitVec 4) (k : Nat) : Except Reject Instr :=
  match p.toNat with
  | 0 => .error .idlePhase
  | 1 => .ok .hdrAvailCheck
  | 2 => .ok .deserHeader
  | 3 => .ok .magicCheck
  | 4 => .ok .bodyAvailCheck
  | 5 => .ok .sizeCheck
  | 6 => .ok .prefixRead
  | 7 => .ok .bodyExtract
  | 8 =>
    match k with
    | 0 => .ok .consumedCalc
    | 1 => .ok .cmdClassify
    | 2 => .ok .successWrite
    | _ => .error .noSuchMicroOp
  | 9 => .ok .errorWrite
  | _ => .error .reservedPhase

/-- PRIM: all four select codes are used (R86). -/
def decodePrim (sel : BitVec 2) (a : Word) : Instr :=
  match sel.toNat with
  | 0 => .leU8 a
  | 1 => .leU16 a
  | 2 => .leU32 a
  | _ => .leS32 a

/-- HDR.magic: row PKT_MAGIC, "match 0x20160905, mask 0xFFFFFFFF" (R140). -/
def decodeMagic (m : Word) : Except Reject Instr :=
  if m = config.magic then .ok .pktMagic else .error .illegalMagic

/-- HDR.command: heartbeat, echo, and the residue (R173). -/
def decodeCommand (c : Word) : Instr :=
  if c = config.cmdHeartbeat then .cmdHeartbeat
  else if c = config.cmdEcho then .cmdEcho
  else .cmdUnknown c

/-- A 32-bit word off the front of the bytes, and the rest. -/
def takeWord : List Byte → Option (Word × List Byte)
  | b0 :: b1 :: b2 :: b3 :: rest => some (BitVec.ofNat 32 (leValue [b0, b1, b2, b3]), rest)
  | _ => none

/-- Decoding, total on any bytes: the operation and the bytes after it, or the reason there is none. -/
def decode (f : Format) (bs : List Byte) : Except Reject (Instr × List Byte) :=
  match f, bs with
  | .req, b :: rest =>
    match decodeReq b with
    | .ok i => .ok (i, rest)
    | .error r => .error r
  | .req, [] => .error .truncated
  | .phase, c :: k :: rest =>
    match decodePhase (c.setWidth 4) k.toNat with
    | .ok i => .ok (i, rest)
    | .error r => .error r
  | .phase, _ => .error .truncated
  | .prim, sel :: rest =>
    match takeWord rest with
    | some (a, rest') => .ok (decodePrim (sel.setWidth 2) a, rest')
    | none => .error .truncated
  | .prim, [] => .error .truncated
  | .magic, bs =>
    match takeWord bs with
    | some (m, rest) =>
      match decodeMagic m with
      | .ok i => .ok (i, rest)
      | .error r => .error r
    | none => .error .truncated
  | .command, bs =>
    match takeWord bs with
    | some (c, rest) => .ok (decodeCommand c, rest)
    | none => .error .truncated

/-! ### Encoding -/

/-- The code space of an instruction. -/
def Instr.format : Instr → Format
  | .decode => .req
  | .hdrAvailCheck => .phase
  | .deserHeader => .phase
  | .magicCheck => .phase
  | .bodyAvailCheck => .phase
  | .sizeCheck => .phase
  | .prefixRead => .phase
  | .bodyExtract => .phase
  | .consumedCalc => .phase
  | .cmdClassify => .phase
  | .successWrite => .phase
  | .errorWrite => .phase
  | .leU8 _ => .prim
  | .leU16 _ => .prim
  | .leU32 _ => .prim
  | .leS32 _ => .prim
  | .pktMagic => .magic
  | .cmdHeartbeat => .command
  | .cmdEcho => .command
  | .cmdUnknown _ => .command

/-- How many bytes a word of the format has. -/
def Format.size : Format → Nat
  | .req => 1
  | .phase => 2
  | .prim => 5
  | .magic => 4
  | .command => 4

/-- The bytes of an instruction in its code space, from the same tables (R82, R85, R86, R72, R11). -/
def encode : Instr → List Byte
  | .decode => [1]
  | .hdrAvailCheck => [1, 0]
  | .deserHeader => [2, 0]
  | .magicCheck => [3, 0]
  | .bodyAvailCheck => [4, 0]
  | .sizeCheck => [5, 0]
  | .prefixRead => [6, 0]
  | .bodyExtract => [7, 0]
  | .consumedCalc => [8, 0]
  | .cmdClassify => [8, 1]
  | .successWrite => [8, 2]
  | .errorWrite => [9, 0]
  | .leU8 a => 0 :: leBytes 4 a.toNat
  | .leU16 a => 1 :: leBytes 4 a.toNat
  | .leU32 a => 2 :: leBytes 4 a.toNat
  | .leS32 a => 3 :: leBytes 4 a.toNat
  | .pktMagic => leBytes 4 config.magic.toNat
  | .cmdHeartbeat => leBytes 4 config.cmdHeartbeat.toNat
  | .cmdEcho => leBytes 4 config.cmdEcho.toNat
  | .cmdUnknown c => leBytes 4 c.toNat

/-! ### The opcode table -/

/-- One row of spec/opcode_table.json. -/
structure Row where
  mnemonic : String
  format : Format
  mask : Nat
  pattern : Nat
deriving DecidableEq, Repr

/-- The table's row of each instruction. -/
def Instr.row : Instr → Row
  | .decode => ⟨"DECODE", .req, 0x1, 0x1⟩
  | .hdrAvailCheck => ⟨"HDR_AVAIL_CHECK", .phase, 0xf, 0x1⟩
  | .deserHeader => ⟨"DESER_HEADER", .phase, 0xf, 0x2⟩
  | .magicCheck => ⟨"MAGIC_CHECK", .phase, 0xf, 0x3⟩
  | .bodyAvailCheck => ⟨"BODY_AVAIL_CHECK", .phase, 0xf, 0x4⟩
  | .sizeCheck => ⟨"SIZE_CHECK", .phase, 0xf, 0x5⟩
  | .prefixRead => ⟨"PREFIX_READ", .phase, 0xf, 0x6⟩
  | .bodyExtract => ⟨"BODY_EXTRACT", .phase, 0xf, 0x7⟩
  | .consumedCalc => ⟨"CONSUMED_CALC", .phase, 0xf, 0x8⟩
  | .cmdClassify => ⟨"CMD_CLASSIFY", .phase, 0xf, 0x8⟩
  | .successWrite => ⟨"SUCCESS_WRITE", .phase, 0xf, 0x8⟩
  | .errorWrite => ⟨"ERROR_WRITE", .phase, 0xf, 0x9⟩
  | .leU8 _ => ⟨"LE_U8", .prim, 0x3, 0x0⟩
  | .leU16 _ => ⟨"LE_U16", .prim, 0x3, 0x1⟩
  | .leU32 _ => ⟨"LE_U32", .prim, 0x3, 0x2⟩
  | .leS32 _ => ⟨"LE_S32", .prim, 0x3, 0x3⟩
  | .pktMagic => ⟨"PKT_MAGIC", .magic, 0xffffffff, 0x20160905⟩
  | .cmdHeartbeat => ⟨"CMD_HEARTBEAT", .command, 0xffffffff, 0x0⟩
  | .cmdEcho => ⟨"CMD_ECHO", .command, 0xffffffff, 0x1⟩
  | .cmdUnknown _ => ⟨"CMD_UNKNOWN", .command, 0x0, 0x0⟩

/-- Which code space a bare table word is read in. DESIGN CHOICE (log 11): the table's words do not name their
space and the one-byte words of REQ, PHASE and PRIM coincide (1 is DECODE, HDR_AVAIL_CHECK and LE_U16). A word of
exactly the port's width names its port; of the one-byte words 0 is read as PRIM, 1 as REQ and the others as PHASE;
of the 32-bit words MAGIC is read in the magic field and every other in the command field. -/
def tableFormat (nbits w : Nat) : Option Format :=
  match nbits with
  | 1 => some .req
  | 2 => some .prim
  | 4 => some .phase
  | 8 =>
    match w % 16 with
    | 0 => some .prim
    | 1 => some .req
    | _ => some .phase
  | 32 => if w = config.magic.toNat then some .magic else some .command
  | _ => none

/-- The bytes of a table word, with zeros up to the longest operation word (five bytes). -/
def tableBytes (nbits w : Nat) : List Byte := leBytes 5 (w % 2 ^ nbits)

/-- The instruction the decoder reads from a table word, none where it refuses or where the word has no space. -/
def decodeTableWord (nbits w : Nat) : Option Instr :=
  match tableFormat nbits w with
  | none => none
  | some f =>
    match decode f (tableBytes nbits w) with
    | .ok (i, _) => some i
    | .error _ => none

end Sys2Proof
end

