-- ==== Sys2Proof/Machine/State.lean ====
section
/-! DEFINITION. The state of packet_header_parser as plain data (spec/10_state.md R22 to R33, R37;
spec/40_packet_header_parser.md R100, R103; spec/41_little_endian_deserializer.md R124), the HOST's pending moves
(spec/30_encoding.md R90, R91), the reasons a step stops (spec/60_exceptions.md R210), and reset (R37, R230). -/

namespace Sys2Proof.Machine

/-- The window `IN_BUF` as (offset, byte) pairs in one canonical form: offsets strictly rising, below 2^32, and no
entry that holds what an unlisted offset reads as (`Memory.unlisted`, Ops.lean; log 6). -/
abbrev Memory := List Host.Cell

/-- The nine header fields in the order of R70. -/
structure Header where
  magic : Word
  logID : Word
  sequence : Word
  serviceID : Word
  command : Word
  /-- The raw 32 bits; their signed reading is two's complement (R28, R75, D10). -/
  code : Word
  bodyLength : Half
  rsvd16 : Half
  rsvd32 : Word
deriving DecidableEq, Repr

/-- The three error kinds (R201 to R203). -/
inductive ErrorKind where
  | insufficientData
  | illegalMagic
  | oversizedPackage
deriving DecidableEq, Repr

/-- The result registers (R23). Which of them hold a value is `readReg` (Flags.lean). -/
structure Results where
  /-- `RES_VALID` (R24). -/
  resValid : Bool
  /-- `RES_STATUS` (R25, R83). -/
  resStatus : BitVec 2
  /-- `RES_CONSUMED` (R26). -/
  resConsumed : Word
  /-- `MSG_VALID` (R27). -/
  msgValid : Bool
  /-- `H_MAGIC` to `H_RSVD32` (R23, R28, R29). -/
  header : Header
  /-- `B_PREFIX` (R30). -/
  bPrefix : Byte
  /-- `B_DATA[0..254]` (R30). -/
  bData : List Byte
  /-- `CMD_CLASS` (R31, R84). -/
  cmdClass : BitVec 2
deriving DecidableEq, Repr

/-- The values local to one transaction (R124 "transaction-local value hdr", R170, R171, R172, R173) and the error
the ERR phase reports (R150). Log 8. -/
structure Tx where
  header : Header
  pfx : Byte
  body : List Byte
  consumed : Word
  cls : BitVec 2
  err : ErrorKind
deriving DecidableEq, Repr

/-- Which micro-operation of phase FINISH is next (R85 lists three). The model's own; log 9. -/
inductive FinishStep where
  | consumed
  | classify
  | write
deriving DecidableEq, Repr

/-- A request to run one deserializer primitive alone: its select code (R86) and its offset. The model's own; log 7. -/
structure PrimReq where
  sel : BitVec 2
  addr : Word
deriving DecidableEq, Repr

/-- The result registers by name (R23), as a HOST read names them. `PHASE` is not among them (R32). -/
inductive Reg where
  | resValid
  | resStatus
  | resConsumed
  | msgValid
  | hMagic
  | hLogID
  | hSequence
  | hServiceID
  | hCommand
  | hCode
  | hBodyLen
  | hRsvd16
  | hRsvd32
  | bPrefix
  | bData (i : Nat)
  | cmdClass
deriving DecidableEq, Repr

/-- The HOST's operations (R90) and its reset (R230, R239). Log 2. -/
inductive HostOp where
  /-- window := these bytes; `IN_LEN` := their count. -/
  | load (bytes : List Byte)
  /-- window := window ++ bytes; `IN_LEN` := `IN_LEN` + count. -/
  | append (bytes : List Byte)
  /-- one DECODE transaction (`START = 1`). -/
  | decode
  /-- window := window[`RES_CONSUMED` ..]. -/
  | advance
  /-- window := empty. -/
  | drop
  /-- assertion on a result register. -/
  | expect (reg : Reg) (value : Int)
  /-- reset, "a HOST action" (R230). -/
  | reset
deriving DecidableEq, Repr

/-- A line of a host script: an operation, or one of the pseudo-operations of R91. -/
inductive HostLine where
  | op (o : HostOp)
  | nextPacket
  | feed (bytes : List Byte)
deriving DecidableEq, Repr

/-- Everything the spec gives the machine (INVENTORY.md, State). -/
structure State where
  /-- `IN_BUF` (R22). -/
  inBuf : Memory
  /-- `IN_LEN` (R22). -/
  inLen : Word
  /-- `START` (R22). -/
  start : Bool
  /-- The model's own: a primitive to run alone (log 7). -/
  primReq : Option PrimReq
  /-- The model's own: the value the last primitive run alone returned (log 7). -/
  primOut : Int
  /-- The result registers (R23). -/
  res : Results
  /-- `PHASE` (R32, R85). -/
  phase : BitVec 4
  /-- The model's own: which part of FINISH is next (log 9). -/
  finish : FinishStep
  /-- The transaction's local values (log 8). -/
  tx : Tx
  /-- The HOST's pending operations, the next one first (log 2). -/
  script : List HostOp
  /-- The model's own: how many times free values were drawn (log 5). -/
  draws : Nat
  /-- The record of the model fault ReadInvalid (R36): "A model records them and never clears them" (R210; log 27). -/
  readInvalid : Bool
deriving DecidableEq, Repr

/-- Why the machine stops. The first two are model faults of R210; its third, ReadInvalid, stops nothing and is recorded
in State. None is a hardware error. -/
inductive Fault where
  /-- `Byte(a)` with a ≥ `IN_LEN` (R51). Raised by the deserializer's reads. Safe: no DECODE reaches it (R53), so it
  marks a sub-operation run where its gate did not pass. -/
  | outOfWindow
  /-- `PHASE` in 10..15 (R85, R150). Raised by the step. Safe: no run from reset reaches it. -/
  | badPhase
  /-- An EXPECT whose register holds another value (R90 "assertion on a result register"; log 14). Raised by EXPECT.
  Safe: the block is not stopped, the HOST's script is. -/
  | expectFailed
deriving DecidableEq, Repr

/-- Why a step has no meaning. -/
inductive Refusal where
  /-- The instruction's arm of exec has no meaning yet. Raised by exec alone; no arm does. Safe. -/
  | notModelled (mnemonic : String)
  /-- A HOST window of 2^32 bytes or more: "longer windows cannot be presented" (D21; log 16). Raised by LOAD and
  APPEND. Safe. -/
  | windowTooLong
  /-- A fetched word that decodes to nothing, for a reason other than a reserved phase. Raised by no state
  (Laws/Step.lean; log 25). Safe. -/
  | undecodable
deriving DecidableEq, Repr

/-- A header of zeros: what the header registers store at reset (log 4). -/
def Header.zero : Header := ⟨0, 0, 0, 0, 0, 0, 0, 0, 0⟩

/-- The transaction's local values outside a transaction: nothing is carried over (R157; log 8). -/
def Tx.initial : Tx := ⟨.zero, 0, [], 0, 0, .insufficientData⟩

/-- The result registers after reset: `RES_VALID = 0` and `MSG_VALID = 0` (R37); the others hold no value, and the
bits stored there are zeros (log 4). -/
def Results.reset : Results :=
  ⟨false, 0, 0, false, .zero, 0, List.replicate bodyCap 0, 0⟩

/-- The machine right after reset (R37, R230), its window empty and `IN_LEN = 0` (95_test_vectors.md, part 3). -/
def State.reset : State where
  inBuf := []
  inLen := 0
  start := false
  primReq := none
  primOut := 0
  res := .reset
  phase := 0
  finish := .consumed
  tx := .initial
  script := []
  draws := 0
  readInvalid := false

end Sys2Proof.Machine
end

