-- ==== Sys2Proof/Machine/Ops.lean ====
section
/-! DEFINITION. The shared operations over the window and the registers: the canonical memory (spec/20_memory.md
R50), the phase register (spec/43_length_validator_fsm.md R150), raising an error and returning from it
(spec/00_scope.md R14 `raise`, spec/40_packet_header_parser.md R103), and the success write (R102). -/

namespace Sys2Proof.Machine

/-- The outcome of an operation. -/
abbrev Out := Host.Outcome State Fault Refusal

/-- Go on with f where the outcome is a next state. -/
def andThen (o : Out) (f : State → Out) : Out :=
  match o with
  | .next s => f s
  | .fault r => .fault r
  | .refused r => .refused r

/-! ### The window's memory -/

/-- What an offset that nothing has written reads as. DESIGN CHOICE (log 6). -/
def Memory.unlisted : Byte := 0

/-- The byte stored at an offset. -/
def Memory.read : Memory → Nat → Byte
  | [], _ => Memory.unlisted
  | (k, b) :: rest, a => if k = a then b else Memory.read rest a

/-- Store a byte, keeping the canonical form: a byte equal to what an unlisted offset reads as is not listed. -/
def Memory.write : Memory → Nat → Byte → Memory
  | [], a, b => if b = Memory.unlisted then [] else [(a, b)]
  | (k, c) :: rest, a, b =>
    if a < k then
      if b = Memory.unlisted then (k, c) :: rest else (a, b) :: (k, c) :: rest
    else if a = k then
      if b = Memory.unlisted then rest else (a, b) :: rest
    else (k, c) :: Memory.write rest a b

/-- Store bytes from an offset on. -/
def Memory.writeBytes : Memory → Nat → List Byte → Memory
  | m, _, [] => m
  | m, a, b :: bs => Memory.writeBytes (Memory.write m a b) (a + 1) bs

/-- The memory without its first n offsets, the rest moved down: window[n ..] (R90 ADVANCE). -/
def Memory.dropFront (n : Nat) : Memory → Memory
  | [] => []
  | (k, b) :: rest =>
    if n ≤ k then (k - n, b) :: Memory.dropFront n rest else Memory.dropFront n rest

/-- The canonical form, from a lowest offset on. -/
def Memory.wfFrom : Nat → Memory → Bool
  | _, [] => true
  | lo, (k, b) :: rest =>
    decide (lo ≤ k) && decide (k < 2 ^ 32) && (b != Memory.unlisted) && Memory.wfFrom (k + 1) rest

/-- The canonical form: offsets strictly rising and below 2^32 (R50), no entry equal to an unlisted read. -/
def Memory.wf (m : Memory) : Bool := Memory.wfFrom 0 m

/-! ### The phase register -/

/-- IDLE (R85). -/
@[simp] abbrev Phase.idle : BitVec 4 := 0
/-- CHK_HDR (R85). -/
@[simp] abbrev Phase.chkHdr : BitVec 4 := 1
/-- DESER (R85). -/
@[simp] abbrev Phase.deser : BitVec 4 := 2
/-- MAGIC (R85). -/
@[simp] abbrev Phase.magic : BitVec 4 := 3
/-- CHK_BODY (R85). -/
@[simp] abbrev Phase.chkBody : BitVec 4 := 4
/-- CHK_SIZE (R85). -/
@[simp] abbrev Phase.chkSize : BitVec 4 := 5
/-- PREFIX (R85). -/
@[simp] abbrev Phase.pfx : BitVec 4 := 6
/-- BODY (R85). -/
@[simp] abbrev Phase.body : BitVec 4 := 7
/-- FINISH (R85). -/
@[simp] abbrev Phase.finish : BitVec 4 := 8
/-- ERR (R85). -/
@[simp] abbrev Phase.err : BitVec 4 := 9

/-- `phase <- P` (R14). -/
def State.goto (p : BitVec 4) (s : State) : State := { s with phase := p }

/-- `raise E` (R14): stop the decode steps and go to ERR with E (R150); ERROR_WRITE then writes the error result and
returns to IDLE. This is the block's only "exception entry": no state is saved, no vector is taken, no mode changes
(R200, R208). Log 10. -/
def State.raise (e : ErrorKind) (s : State) : State :=
  { s with phase := Phase.err, tx := { s.tx with err := e } }

/-- The end of a transaction: back to IDLE (R102, R103), no local value kept (R157; log 8). -/
def State.endTransaction (s : State) : State :=
  { s with phase := Phase.idle, finish := .consumed, tx := .initial, draws := s.draws + 1 }

/-! ### Free values for registers that hold no value (log 5) -/

/-- The header registers' free bits at a draw. -/
def freeHeader (d : Nat) : Header where
  magic := Config.freeValue d 0
  logID := Config.freeValue d 1
  sequence := Config.freeValue d 2
  serviceID := Config.freeValue d 3
  command := Config.freeValue d 4
  code := Config.freeValue d 5
  bodyLength := (Config.freeValue d 6).setWidth 16
  rsvd16 := (Config.freeValue d 7).setWidth 16
  rsvd32 := Config.freeValue d 8

/-- The body registers' free bits at a draw, all `BODY_CAP` of them. -/
def freeBody (d : Nat) : List Byte :=
  (List.range bodyCap).map fun i => (Config.freeValue d (16 + i)).setWidth 8

/-! ### The two result writes -/

/-- Status codes (R83). -/
@[simp] abbrev Status.ok : BitVec 2 := 0

/-- `code(E)` (R83, R103). -/
def ErrorKind.status : ErrorKind → BitVec 2
  | .insufficientData => 1
  | .illegalMagic => 2
  | .oversizedPackage => 3

/-- The values a successful transaction computed. -/
structure Message where
  header : Header
  pfx : Byte
  body : List Byte
  consumed : Word
  cls : BitVec 2
deriving DecidableEq, Repr

/-- `B_DATA` after a success write: the body, then entries that hold no value (R102). -/
def bodyRegisters (body : List Byte) (d : Nat) : List Byte :=
  body.take bodyCap ++ (freeBody d).drop body.length

/-- The result registers after the success write (R102). -/
def Results.success (m : Message) (d : Nat) : Results where
  resValid := true
  resStatus := Status.ok
  resConsumed := m.consumed
  msgValid := true
  header := m.header
  bPrefix := m.pfx
  bData := bodyRegisters m.body d
  cmdClass := m.cls

/-- The result registers after the error write (R103): the message registers hold no value. -/
def Results.error (e : ErrorKind) (d : Nat) : Results where
  resValid := true
  resStatus := e.status
  resConsumed := 0
  msgValid := false
  header := freeHeader d
  bPrefix := (Config.freeValue d 9).setWidth 8
  bData := freeBody d
  cmdClass := (Config.freeValue d 10).setWidth 2

/-- The success write (R102), ending the transaction. -/
def State.writeSuccess (m : Message) (s : State) : State :=
  { s.endTransaction with res := .success m s.draws }

/-- The error write (R103), ending the transaction: the return from `raise`. -/
def State.writeError (e : ErrorKind) (s : State) : State :=
  { s.endTransaction with res := .error e s.draws }

end Sys2Proof.Machine
end

