-- ==== Sys2Proof/Machine/Operands.lean ====
section
/-! DEFINITION. The operand forms: the bytes of the window (spec/20_memory.md R51, R54), the deserializer's four
primitives and its composite (spec/41_little_endian_deserializer.md R120 to R124), and the body bytes
(spec/44_body_and_command.md R171). Every read is `none` where it leaves the window (R51). -/

namespace Sys2Proof.Machine

/-- `Byte(a)` (R14), "defined only for a < IN_LEN" (R51). -/
def State.byteAt (s : State) (a : Nat) : Option Byte :=
  if a < s.inLen.toNat then some (Memory.read s.inBuf a) else none

/-- The n bytes at offsets a .. a+n-1. -/
def State.readBytes (s : State) : Nat → Nat → Option (List Byte)
  | _, 0 => some []
  | a, n + 1 =>
    match s.byteAt a with
    | none => none
    | some b =>
      match s.readBytes (a + 1) n with
      | none => none
      | some bs => some (b :: bs)

/-- `MemRead(a, n)`: the n-byte little-endian value at offset a (R54). -/
def State.memRead (s : State) (a n : Nat) : Option Nat := (s.readBytes a n).map leValue

/-- LE_U8(a) (R120). -/
def State.leU8 (s : State) (a : Nat) : Option Byte := (s.memRead a 1).map (BitVec.ofNat 8)

/-- LE_U16(a) (R121). -/
def State.leU16 (s : State) (a : Nat) : Option Half := (s.memRead a 2).map (BitVec.ofNat 16)

/-- LE_U32(a) (R122). -/
def State.leU32 (s : State) (a : Nat) : Option Word := (s.memRead a 4).map (BitVec.ofNat 32)

/-- LE_S32(a) (R123): LE_U32's pattern, read as two's complement (R13, D10; log 18). -/
def State.leS32 (s : State) (a : Nat) : Option Int := (s.leU32 a).map BitVec.toInt

/-- DESER_HEADER (R124): nine reads, each at its own width and offset (R55, R70). The signed code's register holds
its 32 bits (R28). -/
def State.deserHeader (s : State) : Option Header :=
  match s.leU32 0, s.leU32 4, s.leU32 8, s.leU32 12, s.leU32 16, s.leS32 20, s.leU16 24, s.leU16 26, s.leU32 28 with
  | some magic, some logID, some sequence, some serviceID, some command, some code, some bodyLength, some rsvd16,
    some rsvd32 =>
    some ⟨magic, logID, sequence, serviceID, command, BitVec.ofInt 32 code, bodyLength, rsvd16, rsvd32⟩
  | _, _, _, _, _, _, _, _, _ => none

end Sys2Proof.Machine
end

