-- ==== Sys2Proof/Machine/Flags.lean ====
section
/-! DEFINITION. The gates' conditions (spec/42_magic_number_gate.md R140; spec/43_length_validator_fsm.md R151 to
R153; spec/44_body_and_command.md R170, R171), the command classes (R173, R84), and which result register holds a
value (spec/10_state.md R23, R24, R27, R30, R36). There are no arithmetic condition codes (R35). -/

namespace Sys2Proof.Machine

/-- HDR_AVAIL_CHECK's failure: `IN_LEN < HDR_LEN` (R151). -/
def headerShort (c : Config) (s : State) : Bool := s.inLen.toNat < c.hdrLen

/-- MAGIC_CHECK's pass: all 32 bits equal (R140). -/
def magicOk (c : Config) (h : Header) : Bool := h.magic == c.magic

/-- BODY_AVAIL_CHECK's failure: `(IN_LEN - HDR_LEN) < zext_32(bodyLength)` "on exact integers" (R152, R13), so with
the header's length on the other side. -/
def bodyShort (c : Config) (s : State) (h : Header) : Bool := s.inLen.toNat < c.hdrLen + h.bodyLength.toNat

/-- SIZE_CHECK's failure (R153): `(bodyLength - 1) mod 2^16 > MAX_BODY`; with `BL0_WRAPS` false the subtraction is
the exact integer one (D4). -/
def oversized (c : Config) (h : Header) : Bool :=
  if c.bl0Wraps then decide (c.maxBody < (h.bodyLength - 1).toNat)
  else decide ((c.maxBody : Int) < (h.bodyLength.toNat : Int) - 1)

/-- PREFIX_READ's failure: `IN_LEN < HDR_LEN + 1` (R170). -/
def prefixMissing (c : Config) (s : State) : Bool := s.inLen.toNat < c.hdrLen + 1

/-- BODY_EXTRACT's failure: `IN_LEN < HDR_LEN + 1 + p` (R171). -/
def bodyPastWindow (c : Config) (s : State) (p : Byte) : Bool := s.inLen.toNat < c.hdrLen + 1 + p.toNat

/-- CONSUMED_CALC: `HDR_LEN + 1 + p` (R172). -/
def consumedLength (c : Config) (p : Byte) : Word := BitVec.ofNat 32 (c.hdrLen + 1 + p.toNat)

/-- HEARTBEAT (R84). -/
@[simp] abbrev CmdClass.heartbeat : BitVec 2 := 0
/-- ECHO (R84). -/
@[simp] abbrev CmdClass.echo : BitVec 2 := 1
/-- UNKNOWN (R84). -/
@[simp] abbrev CmdClass.unknown : BitVec 2 := 2

/-- CMD_CLASSIFY (R173). -/
def classify (c : Config) (command : Word) : BitVec 2 :=
  if command = c.cmdHeartbeat then CmdClass.heartbeat
  else if command = c.cmdEcho then CmdClass.echo
  else CmdClass.unknown

/-- The name strings of the command classes (R31, R84); code 3 has none. -/
def className (cls : BitVec 2) : Option String :=
  match cls.toNat with
  | 0 => some "heartbeat"
  | 1 => some "echo"
  | 2 => some "unknown"
  | _ => none

/-- The names of the status codes (R83). -/
def statusName (st : BitVec 2) : String :=
  match st.toNat with
  | 0 => "OK"
  | 1 => "INSUFFICIENT_DATA"
  | 2 => "ILLEGAL_MAGIC"
  | _ => "OVERSIZED_PACKAGE"

/-- A value that is there under a condition. -/
def validWhen (c : Bool) (v : Int) : Option Int := if c then some v else none

/-- What a HOST read of a result register gives, `none` where the register holds no value (R23's column "valid
when"; R24, R27, R30, R36). `H_CODE` is read as signed (R28). -/
def readReg (r : Results) : Reg → Option Int
  | .resValid => some r.resValid.toNat
  | .resStatus => validWhen r.resValid r.resStatus.toNat
  | .resConsumed => validWhen r.resValid r.resConsumed.toNat
  | .msgValid => some r.msgValid.toNat
  | .hMagic => validWhen r.msgValid r.header.magic.toNat
  | .hLogID => validWhen r.msgValid r.header.logID.toNat
  | .hSequence => validWhen r.msgValid r.header.sequence.toNat
  | .hServiceID => validWhen r.msgValid r.header.serviceID.toNat
  | .hCommand => validWhen r.msgValid r.header.command.toNat
  | .hCode => validWhen r.msgValid r.header.code.toInt
  | .hBodyLen => validWhen r.msgValid r.header.bodyLength.toNat
  | .hRsvd16 => validWhen r.msgValid r.header.rsvd16.toNat
  | .hRsvd32 => validWhen r.msgValid r.header.rsvd32.toNat
  | .bPrefix => validWhen r.msgValid r.bPrefix.toNat
  | .bData i =>
    if r.msgValid && decide (i < r.bPrefix.toNat) then (r.bData[i]?).map fun b => (b.toNat : Int) else none
  | .cmdClass => validWhen r.msgValid r.cmdClass.toNat

end Sys2Proof.Machine
end

