-- ==== Sys2Proof/Machine/BodyCommand.lean ====
section
/-! DEFINITION. Prefix, body, consumed length and command class (spec/44_body_and_command.md R170 to R173). -/

namespace Sys2Proof.Machine

/-- The prefix, transaction-local; on to BODY (R170, R150). -/
def State.takePrefix (p : Byte) (s : State) : State :=
  { s with tx := { s.tx with pfx := p }, phase := Phase.body }

/-- The body, transaction-local; on to FINISH, whose first part is next (R171, R150). -/
def State.takeBody (body : List Byte) (s : State) : State :=
  { s with tx := { s.tx with body := body }, phase := Phase.finish, finish := .consumed }

/-- The policy `PREFIX_FAIL` for a missing prefix byte (D5, I1): fail closed, or a zero-length body (log 17). -/
def prefixFailure (c : Config) (s : State) : State :=
  match c.prefixFail with
  | .insufficientData => s.raise .insufficientData
  | .zeroBody => (s.takePrefix 0).takeBody []

/-- PREFIX_READ under a configuration (R170). -/
def prefixRead (c : Config) (s : State) : Out :=
  if prefixMissing c s then .next (prefixFailure c s)
  else
    match s.leU8 c.hdrLen with
    | some p => .next (s.takePrefix p)
    | none => .fault .outOfWindow

/-- PREFIX_READ (R170). -/
def execPrefixRead (s : State) : Out := prefixRead config s

/-- BODY_EXTRACT (R171): never a short body (D6). -/
def execBodyExtract (s : State) : Out :=
  if bodyPastWindow config s s.tx.pfx then .next (s.raise .insufficientData)
  else
    match s.readBytes (config.hdrLen + 1) s.tx.pfx.toNat with
    | some body => .next (s.takeBody body)
    | none => .fault .outOfWindow

/-- CONSUMED_CALC (R172); CMD_CLASSIFY is next (log 9). -/
def execConsumedCalc (s : State) : Out :=
  .next { s with tx := { s.tx with consumed := consumedLength config s.tx.pfx }, finish := .classify }

/-- The command class, transaction-local; the success write is next (R173; log 9). -/
def State.takeClass (cls : BitVec 2) (s : State) : State :=
  { s with tx := { s.tx with cls := cls }, finish := .write }

/-- CMD_CLASSIFY (R173). -/
def execCmdClassify (s : State) : Out := .next (s.takeClass (classify config s.tx.header.command))

/-- CMD_HEARTBEAT: the command field selects class HEARTBEAT (R88, R173). Log 22. -/
def execCmdHeartbeat (s : State) : Out := .next (s.takeClass CmdClass.heartbeat)

/-- CMD_ECHO: the command field selects class ECHO (R88, R173). Log 22. -/
def execCmdEcho (s : State) : Out := .next (s.takeClass CmdClass.echo)

/-- CMD_UNKNOWN: any other command selects class UNKNOWN, never an error (R173, D9). Log 22. -/
def execCmdUnknown (_ : Word) (s : State) : Out := .next (s.takeClass CmdClass.unknown)

end Sys2Proof.Machine
end

