-- ==== Sys2Proof/Machine/Deserializer.lean ====
section
/-! DEFINITION. The little_endian_deserializer's operations (spec/41_little_endian_deserializer.md R120 to R125). A
primitive run alone returns its value to `primOut` ("The value goes to the caller"; log 7); it writes no register of
the block. A read outside the window is the model fault OutOfWindow (R51). -/

namespace Sys2Proof.Machine

/-- A primitive's value goes to its caller, and its request is done. -/
def State.returnPrim (v : Int) (s : State) : State := { s with primOut := v, primReq := none }

/-- The outcome of a primitive: its value, or OutOfWindow (R51, R120). -/
def primResult (v : Option Int) (s : State) : Out :=
  match v with
  | some v => .next (s.returnPrim v)
  | none => .fault .outOfWindow

/-- LE_U8(a) (R120). -/
def execLeU8 (a : Word) (s : State) : Out := primResult ((s.leU8 a.toNat).map fun v => (v.toNat : Int)) s

/-- LE_U16(a) (R121). -/
def execLeU16 (a : Word) (s : State) : Out := primResult ((s.leU16 a.toNat).map fun v => (v.toNat : Int)) s

/-- LE_U32(a) (R122). -/
def execLeU32 (a : Word) (s : State) : Out := primResult ((s.leU32 a.toNat).map fun v => (v.toNat : Int)) s

/-- LE_S32(a) (R123). -/
def execLeS32 (a : Word) (s : State) : Out := primResult (s.leS32 a.toNat) s

/-- The deserialized header, transaction-local; on to MAGIC (R124, R150). -/
def State.takeHeader (h : Header) (s : State) : State :=
  { s with tx := { s.tx with header := h }, phase := Phase.magic }

/-- DESER_HEADER (R124). -/
def execDeserHeader (s : State) : Out :=
  match s.deserHeader with
  | some h => .next (s.takeHeader h)
  | none => .fault .outOfWindow

end Sys2Proof.Machine
end

