-- ==== Sys2Proof/Machine/LengthGates.lean ====
section
/-! DEFINITION. The three length gates of the length_validator_fsm (spec/43_length_validator_fsm.md R151 to R153). -/

namespace Sys2Proof.Machine

/-- A gate: raise E where its failure holds, else go on to the next phase (R150). -/
def gate (fails : Bool) (e : ErrorKind) (next : BitVec 4) (s : State) : Out :=
  if fails then .next (s.raise e) else .next (s.goto next)

/-- HDR_AVAIL_CHECK (R151). -/
def execHdrAvailCheck (s : State) : Out := gate (headerShort config s) .insufficientData Phase.deser s

/-- BODY_AVAIL_CHECK (R152). -/
def execBodyAvailCheck (s : State) : Out :=
  gate (bodyShort config s s.tx.header) .insufficientData Phase.chkSize s

/-- SIZE_CHECK (R153). -/
def execSizeCheck (s : State) : Out := gate (oversized config s.tx.header) .oversizedPackage Phase.pfx s

end Sys2Proof.Machine
end

