-- ==== Sys2Proof/Machine/MagicGate.lean ====
section
/-! DEFINITION. The magic_number_gate (spec/42_magic_number_gate.md R140, R141). -/

namespace Sys2Proof.Machine

/-- A pass of the gate: on to CHK_BODY, nothing written (R140, R150). -/
def acceptMagic (s : State) : Out := .next (s.goto Phase.chkBody)

/-- MAGIC_CHECK (R140): a difference in any of the 32 bits raises IllegalMagic. -/
def execMagicCheck (s : State) : Out :=
  if magicOk config s.tx.header then acceptMagic s else .next (s.raise .illegalMagic)

/-- PKT_MAGIC: the magic field equals MAGIC, which "selects acceptance by the magic gate" (R88, R140). Log 22. -/
def execPktMagic (s : State) : Out := acceptMagic s

end Sys2Proof.Machine
end

