-- ==== Sys2Proof/Machine/Transaction.lean ====
section
/-! DEFINITION. The DECODE operation and its two result writes (spec/40_packet_header_parser.md R100 to R104). -/

namespace Sys2Proof.Machine

/-- What a transaction comes to: a message, an error, or a read outside the window (which R53 excludes). -/
inductive Verdict where
  | accept (m : Message)
  | raise (e : ErrorKind)
  | outOfWindow
deriving DecidableEq, Repr

/-- The message of an accepted packet: FINISH's CONSUMED_CALC and CMD_CLASSIFY (R172, R173). -/
def assemble (c : Config) (h : Header) (p : Byte) (body : List Byte) : Message :=
  ⟨h, p, body, consumedLength c p, classify c h.command⟩

/-- The end of DECODE's pseudocode, from the BODY phase on (R100, R171). -/
def bodyVerdict (c : Config) (s : State) (h : Header) (p : Byte) : Verdict :=
  if bodyPastWindow c s p then .raise .insufficientData
  else
    match s.readBytes (c.hdrLen + 1) p.toNat with
    | none => .outOfWindow
    | some body => .accept (assemble c h p body)

/-- DECODE's pseudocode from the PREFIX phase on (R100, R170). -/
def prefixVerdict (c : Config) (s : State) (h : Header) : Verdict :=
  if prefixMissing c s then
    match c.prefixFail with
    | .insufficientData => .raise .insufficientData
    | .zeroBody => .accept (assemble c h 0 [])
  else
    match s.leU8 c.hdrLen with
    | none => .outOfWindow
    | some p => bodyVerdict c s h p

/-- DECODE's pseudocode (R100), its gates strictly in R101's order. -/
def decodeVerdict (c : Config) (s : State) : Verdict :=
  if headerShort c s then .raise .insufficientData
  else
    match s.deserHeader with
    | none => .outOfWindow
    | some h =>
      if !magicOk c h then .raise .illegalMagic
      else if bodyShort c s h then .raise .insufficientData
      else if oversized c h then .raise .oversizedPackage
      else prefixVerdict c s h

/-- Write a verdict to the result registers: R102 or R103, never both. -/
def writeVerdict (v : Verdict) (s : State) : Out :=
  match v with
  | .accept m => .next (s.writeSuccess m)
  | .raise e => .next (s.writeError e)
  | .outOfWindow => .fault .outOfWindow

/-- The request is taken: START is back to 0 (R22 "a request"; log 3). -/
def State.clearStart (s : State) : State := { s with start := false }

/-- DECODE (R100): one atomic step from the window to the result registers. -/
def execDecode (s : State) : Out := writeVerdict (decodeVerdict config s) s.clearStart

/-- The transaction's message, as the earlier phases left it. -/
def Tx.message (tx : Tx) : Message := ⟨tx.header, tx.pfx, tx.body, tx.consumed, tx.cls⟩

/-- SUCCESS_WRITE (R102). -/
def execSuccessWrite (s : State) : Out := .next (s.writeSuccess s.tx.message)

/-- ERROR_WRITE (R103). -/
def execErrorWrite (s : State) : Out := .next (s.writeError s.tx.err)

end Sys2Proof.Machine
end

