-- ==== Sys2Proof/Machine/Dispatch.lean ====
section
/-! DEFINITION. One arm per constructor of Instr: its meaning (spec/30_encoding.md R88). -/

namespace Sys2Proof.Machine

def exec (i : Instr) (s : State) : Host.Outcome State Fault Refusal :=
  match i with
  | .decode => Sys2Proof.Machine.execDecode s
  | .hdrAvailCheck => Sys2Proof.Machine.execHdrAvailCheck s
  | .deserHeader => Sys2Proof.Machine.execDeserHeader s
  | .magicCheck => Sys2Proof.Machine.execMagicCheck s
  | .bodyAvailCheck => Sys2Proof.Machine.execBodyAvailCheck s
  | .sizeCheck => Sys2Proof.Machine.execSizeCheck s
  | .prefixRead => Sys2Proof.Machine.execPrefixRead s
  | .bodyExtract => Sys2Proof.Machine.execBodyExtract s
  | .consumedCalc => Sys2Proof.Machine.execConsumedCalc s
  | .cmdClassify => Sys2Proof.Machine.execCmdClassify s
  | .successWrite => Sys2Proof.Machine.execSuccessWrite s
  | .errorWrite => Sys2Proof.Machine.execErrorWrite s
  | .leU8 a => Sys2Proof.Machine.execLeU8 a s
  | .leU16 a => Sys2Proof.Machine.execLeU16 a s
  | .leU32 a => Sys2Proof.Machine.execLeU32 a s
  | .leS32 a => Sys2Proof.Machine.execLeS32 a s
  | .pktMagic => Sys2Proof.Machine.execPktMagic s
  | .cmdHeartbeat => Sys2Proof.Machine.execCmdHeartbeat s
  | .cmdEcho => Sys2Proof.Machine.execCmdEcho s
  | .cmdUnknown c => Sys2Proof.Machine.execCmdUnknown c s

end Sys2Proof.Machine
end

