-- ==== Sys2Proof/Machine/Fetch.lean ====
section
/-! DEFINITION. Where a step's next operation stands (spec/10_state.md R21: "no program counter and no instruction
memory"): the phase register while a transaction is under way, the START port in IDLE (spec/30_encoding.md R82, R85),
then the model's own request to run a primitive alone (R86; log 7). -/

namespace Sys2Proof.Machine

/-- The number of the micro-operation within FINISH (log 9). -/
def FinishStep.index : FinishStep → Byte
  | .consumed => 0
  | .classify => 1
  | .write => 2

/-- The code space and the bytes of the next operation; none where it is the HOST's move. -/
def fetch (s : State) : Option (Format × List Byte) :=
  if s.phase ≠ Phase.idle then some (.phase, [s.phase.setWidth 8, s.finish.index])
  else if s.start then some (.req, [1])
  else
    match s.primReq with
    | some q => some (.prim, q.sel.setWidth 8 :: leBytes 4 q.addr.toNat)
    | none => none

/-- What a word that is no operation comes to: a reserved phase is the model fault BadPhase (R85, R150). No other
reason arises from a fetch (log 25). -/
def rejected : Reject → Out
  | .reservedPhase => .fault .badPhase
  | .truncated => .refused .undecodable
  | .noRequest => .refused .undecodable
  | .idlePhase => .refused .undecodable
  | .noSuchMicroOp => .refused .undecodable
  | .illegalMagic => .refused .undecodable

/-- Put a table word where the next step finds it (log 12). A word of the header's fields stands in the transaction's
header, with the phase that looks at it next. -/
def placeWord (f : Format) (w : Nat) (s : State) : State :=
  match f with
  | .req => { s with phase := Phase.idle, start := (BitVec.ofNat 1 w).getLsbD 0 }
  | .phase => { s with phase := BitVec.ofNat 4 w, finish := .consumed }
  | .prim =>
    { s with phase := Phase.idle, start := false, primReq := some ⟨BitVec.ofNat 2 w, BitVec.ofNat 32 (w / 256)⟩ }
  | .magic => { s with phase := Phase.magic, tx := { s.tx with header := { s.tx.header with magic := BitVec.ofNat 32 w } } }
  | .command =>
    { s with
      phase := Phase.finish
      finish := .classify
      tx := { s.tx with header := { s.tx.header with command := BitVec.ofNat 32 w } } }

end Sys2Proof.Machine
end

