-- ==== Sys2Proof/Machine/HostScript.lean ====
section
/-! DEFINITION. The HOST's operations on the block (spec/30_encoding.md R90, R91; spec/70_reset_and_hazards.md R230,
R239). "Only DECODE is an operation of the block. The others are HOST steps." -/

namespace Sys2Proof.Machine

/-- Present a window: its bytes from an offset on, and its length (R90, R239). A length of 2^32 or more cannot be
presented (D21; log 16). -/
def present (base : Memory) (at_ : Nat) (bytes : List Byte) (s : State) : Out :=
  if at_ + bytes.length < 2 ^ 32 then
    .next { s with inBuf := Memory.writeBytes base at_ bytes, inLen := BitVec.ofNat 32 (at_ + bytes.length) }
  else .refused .windowTooLong

/-- LOAD (R90). -/
def hostLoad (bytes : List Byte) (s : State) : Out := present [] 0 bytes s

/-- APPEND (R90). -/
def hostAppend (bytes : List Byte) (s : State) : Out := present s.inBuf s.inLen.toNat bytes s

/-- DECODE (R90): the HOST sets START and the transaction completes in the same step (R33). -/
def hostDecode (s : State) : Out := exec .decode { s with start := true }

/-- `model_fault(ReadInvalid)`: recorded, and never cleared (R14, R36, R210; log 27). -/
def State.recordReadInvalid (s : State) : State := { s with readInvalid := true }

/-- The window without its first n bytes (R90). -/
def State.dropWindow (n : Word) (s : State) : State :=
  { s with inBuf := Memory.dropFront n.toNat s.inBuf, inLen := s.inLen - n }

/-- A free count of bytes, at most the window's: what the HOST advances by where `RES_CONSUMED` holds no value ("Real
hardware returns some unspecified value there", R36; log 27). -/
def State.freeCount (s : State) : Word :=
  BitVec.ofNat 32 ((Config.freeValue s.draws 11).toNat % (s.inLen.toNat + 1))

/-- The window from offset n on where it holds fewer than n bytes (R90 "window[`RES_CONSUMED` ..]"). The spec states no
result for an `IN_LEN − RES_CONSUMED` below 0: `IN_LEN` becomes a free value. DESIGN CHOICE (log 15). -/
def State.dropPastWindow (n : Word) (s : State) : State :=
  { s with
    inBuf := Memory.dropFront n.toNat s.inBuf
    inLen := Config.freeValue s.draws 12
    draws := s.draws + 1 }

/-- ADVANCE (R90, R236): the window without its first `RES_CONSUMED` bytes. While `RES_VALID = 0` the register holds no
value: ReadInvalid is recorded (R90, R210) and the HOST advances by a free count (log 27). -/
def hostAdvance (s : State) : Out :=
  if !s.res.resValid then .next { (s.dropWindow s.freeCount).recordReadInvalid with draws := s.draws + 1 }
  else if s.res.resConsumed.toNat ≤ s.inLen.toNat then .next (s.dropWindow s.res.resConsumed)
  else .next (s.dropPastWindow s.res.resConsumed)

/-- DROP (R90). -/
def hostDrop (s : State) : Out := .next { s with inBuf := [], inLen := 0 }

/-- EXPECT (R90): a read of a register with no value is recorded as ReadInvalid (R36), and the assertion on it is not
judged (log 27); another value than the asserted one stops the script (log 14). -/
def hostExpect (r : Reg) (v : Int) (s : State) : Out :=
  match readReg s.res r with
  | none => .next s.recordReadInvalid
  | some w => if w = v then .next s else .fault .expectFailed

/-- Reset (R230, R37): the block's state; the HOST's ports and its script are not the block's (R37 "not block state";
log 19), and a recorded model fault stays (R210). -/
def hostReset (s : State) : Out :=
  .next { State.reset with
    inBuf := s.inBuf
    inLen := s.inLen
    script := s.script
    draws := s.draws
    readInvalid := s.readInvalid }

/-- One HOST operation. -/
def hostExec (o : HostOp) (s : State) : Out :=
  match o with
  | .load bytes => hostLoad bytes s
  | .append bytes => hostAppend bytes s
  | .decode => hostDecode s
  | .advance => hostAdvance s
  | .drop => hostDrop s
  | .expect r v => hostExpect r v s
  | .reset => hostReset s

/-- The HOST's move: its next operation; with none pending the block waits in IDLE (R150 "IDLE | otherwise | IDLE";
log 1). -/
def hostStep (s : State) : Out :=
  match s.script with
  | [] => .next s
  | o :: rest => hostExec o { s with script := rest }

/-- The pseudo-operations' expansion (R91): NEXT is DECODE then ADVANCE, FEED is APPEND then DECODE. -/
def HostLine.expand : HostLine → List HostOp
  | .op o => [o]
  | .nextPacket => [.decode, .advance]
  | .feed bytes => [.append bytes, .decode]

/-- A script's operations. -/
def expandScript : List HostLine → List HostOp
  | [] => []
  | l :: rest => l.expand ++ expandScript rest

end Sys2Proof.Machine
end

