-- ==== Sys2Proof/Machine/Step.lean ====
section
/-! DEFINITION. One step of the machine: the PARSER's next operation where there is one, else the HOST's move
(spec/10_state.md R20; spec/20_memory.md R61; log 1). -/

namespace Sys2Proof.Machine

/-- One step. -/
def step (s : State) : Host.Outcome State Fault Refusal :=
  match fetch s with
  | some (f, bytes) =>
    match decode f bytes with
    | .ok (i, _) => exec i s
    | .error r => rejected r
  | none => hostStep s

/-- s with a table word stored where `step` fetches its next operation (log 12). -/
def State.withFetchWord (s : State) (nbits w : Nat) : State :=
  match tableFormat nbits w with
  | some f => placeWord f (w % 2 ^ nbits) s
  | none => s

end Sys2Proof.Machine
end

