-- ==== Sys2Proof/Machine/ScriptText.lean ====
section
/-! DEFINITION. Host scripts as text (spec/30_encoding.md R90, R91; D19): one operation a line, `;` starts a comment,
hex bytes are two hex digits separated by spaces. Text is a list of characters. Log 24. -/

namespace Sys2Proof.Machine

/-- Cut a list at every occurrence of a separator. -/
def splitAtChar (sep : Char) : List Char → List (List Char)
  | [] => [[]]
  | c :: cs =>
    if c = sep then [] :: splitAtChar sep cs
    else
      match splitAtChar sep cs with
      | [] => [[c]]
      | w :: ws => (c :: w) :: ws

/-- The words of a line, without its comment. -/
def lineWords (line : List Char) : List (List Char) :=
  (splitAtChar ' ' (line.takeWhile (· ≠ ';'))).filter (· ≠ [])

/-- The two ways R13 writes numbers. -/
inductive Radix where
  | ten
  | sixteen
deriving DecidableEq, Repr

/-- How many digits there are. -/
def Radix.size : Radix → Nat
  | .ten => 10
  | .sixteen => 16

/-- Where a character stands in a row of characters. -/
def placeIn (x : Char) : List Char → Option Nat
  | [] => none
  | y :: row => if x = y then some 0 else (placeIn x row).map Nat.succ

/-- A digit's value: its place in the row of the digits. Hex digits may be of either case (log 24). -/
def Radix.digit (r : Radix) (x : Char) : Option Nat :=
  match r with
  | .ten => placeIn x "0123456789".toList
  | .sixteen => (placeIn x "0123456789ABCDEF".toList).orElse fun _ => placeIn x "0123456789abcdef".toList

/-- The number a word of digits writes, the first digit weighing most. -/
def Radix.number (r : Radix) (word : List Char) : Option Nat :=
  (word.mapM r.digit).map (List.foldl (fun n v => r.size * n + v) 0)

/-- One byte: "two hex digits" (R90). -/
def hexByte (word : List Char) : Option Byte :=
  if word.length = 2 then (Radix.sixteen.number word).map (BitVec.ofNat 8) else none

/-- Hex bytes. -/
def hexBytes : List (List Char) → Option (List Byte)
  | [] => some []
  | w :: ws =>
    match hexByte w, hexBytes ws with
    | some b, some bs => some (b :: bs)
    | _, _ => none

/-- A number as R13 writes it: hexadecimal after `0x`, else decimal; at least one digit. -/
def natText : List Char → Option Nat
  | [] => none
  | ['0', 'x'] => none
  | '0' :: 'x' :: word => Radix.sixteen.number word
  | word => Radix.ten.number word

/-- An EXPECT's value: a natural number, or its negative. -/
def valueText : List Char → Option Int
  | '-' :: cs => (natText cs).map fun n => -(n : Int)
  | cs => (natText cs).map fun n => (n : Int)

/-- The names of the result registers (R23), but for `B_DATA[i]`. -/
def regNames : List (String × Reg) :=
  [("RES_VALID", .resValid), ("RES_STATUS", .resStatus), ("RES_CONSUMED", .resConsumed), ("MSG_VALID", .msgValid),
   ("H_MAGIC", .hMagic), ("H_LOGID", .hLogID), ("H_SEQUENCE", .hSequence), ("H_SERVICEID", .hServiceID),
   ("H_COMMAND", .hCommand), ("H_CODE", .hCode), ("H_BODYLEN", .hBodyLen), ("H_RSVD16", .hRsvd16),
   ("H_RSVD32", .hRsvd32), ("B_PREFIX", .bPrefix), ("CMD_CLASS", .cmdClass)]

/-- The register a name stands for in a list of names. -/
def lookupReg : List (String × Reg) → List Char → Option Reg
  | [], _ => none
  | (n, r) :: rest, w => if n.toList = w then some r else lookupReg rest w

/-- A register's name. -/
def regText (w : List Char) : Option Reg :=
  match w with
  | 'B' :: '_' :: 'D' :: 'A' :: 'T' :: 'A' :: '[' :: rest =>
    match splitAtChar ']' rest with
    | [i, []] => (if i = [] then none else Radix.ten.number i).map Reg.bData
    | _ => none
  | _ => lookupReg regNames w

/-- An operation's operands (R90, R91). RESET is the reset of R239. -/
def opText (name : List Char) (args : List (List Char)) : Option HostLine :=
  if name = "LOAD".toList then (hexBytes args).map fun b => .op (.load b)
  else if name = "APPEND".toList then (hexBytes args).map fun b => .op (.append b)
  else if name = "FEED".toList then (hexBytes args).map .feed
  else if name = "EXPECT".toList then
    match args with
    | [r, ['='], v] =>
      match regText r, valueText v with
      | some r, some v => some (.op (.expect r v))
      | _, _ => none
    | _ => none
  else if args ≠ [] then none
  else if name = "DECODE".toList then some (.op .decode)
  else if name = "ADVANCE".toList then some (.op .advance)
  else if name = "DROP".toList then some (.op .drop)
  else if name = "RESET".toList then some (.op .reset)
  else if name = "NEXT".toList then some .nextPacket
  else none

/-- A line's operation; a line with nothing but a comment has none. -/
def lineText (line : List Char) : Option (List HostLine) :=
  match lineWords line with
  | [] => some []
  | w :: ws => (opText w ws).map fun l => [l]

/-- The lines of a script. -/
def linesText : List (List Char) → Option (List HostLine)
  | [] => some []
  | l :: ls =>
    match lineText l, linesText ls with
    | some a, some b => some (a ++ b)
    | _, _ => none

/-- The HOST operations a script's text stands for, none where it is no script. -/
def parseScript (text : List Char) : Option (List HostOp) := (linesText (splitAtChar '\n' text)).map expandScript

end Sys2Proof.Machine
end

