-- ==== Sys2Proof/Machine/Fsm.lean ====
section
/-! DEFINITION. The length_validator_fsm's transition table (spec/43_length_validator_fsm.md R150, R156): the hidden
walk of PHASE inside one transaction, which DECODE performs as one atomic step (spec/10_state.md R32). -/

namespace Sys2Proof.Machine

/-- IDLE with START = 1: the request is taken, on to CHK_HDR (R150). -/
def State.enter (s : State) : State := { s with phase := Phase.chkHdr, start := false }

/-- FINISH: CONSUMED_CALC, CMD_CLASSIFY and the success write (R85, R150). -/
def finishTransition (s : State) : Out :=
  andThen (exec .consumedCalc s) fun s => andThen (exec .cmdClassify s) fun s => exec .successWrite s

/-- One transition of PHASE (R150). -/
def transition (s : State) : Out :=
  match s.phase.toNat with
  | 0 => if s.start then .next s.enter else .next s
  | 1 => exec .hdrAvailCheck s
  | 2 => exec .deserHeader s
  | 3 => exec .magicCheck s
  | 4 => exec .bodyAvailCheck s
  | 5 => exec .sizeCheck s
  | 6 => exec .prefixRead s
  | 7 => exec .bodyExtract s
  | 8 => finishTransition s
  | 9 => exec .errorWrite s
  | _ => .fault .badPhase

/-- At most n transitions, stopping when the FSM is back in IDLE; the outcome is the state there, or none where the
FSM is not back in IDLE after n. -/
def runToIdle : Nat → State → Option Out
  | 0, _ => none
  | n + 1, s =>
    match transition s with
    | .next t => if t.phase = Phase.idle then some (.next t) else runToIdle n t
    | .fault r => some (.fault r)
    | .refused r => some (.refused r)

end Sys2Proof.Machine
end

