-- ==== Sys2Proof/Machine/Wire.lean ====
section
/-! DEFINITION. The reference wire image of a packet (spec/30_encoding.md R70, R81): not hardware, what the laws of
spec/40_packet_header_parser.md R106 and R107 speak of. -/

namespace Sys2Proof.Machine

/-- The 32 header bytes (R70, R71, R81). -/
def headerImage (h : Header) : List Byte :=
  leBytes 4 h.magic.toNat ++ leBytes 4 h.logID.toNat ++ leBytes 4 h.sequence.toNat ++ leBytes 4 h.serviceID.toNat
    ++ leBytes 4 h.command.toNat ++ leBytes 4 h.code.toNat ++ leBytes 2 h.bodyLength.toNat ++ leBytes 2 h.rsvd16.toNat
    ++ leBytes 4 h.rsvd32.toNat

/-- `WireImage(h, body)` (R81); the length byte is `len(body) mod 256` (D23). -/
def wireImage (h : Header) (body : List Byte) : List Byte :=
  headerImage h ++ BitVec.ofNat 8 body.length :: body

/-- The window begins with these bytes: it is at least as long, and holds them from offset 0 on. -/
def State.windowBegins (s : State) (bytes : List Byte) : Prop :=
  bytes.length ≤ s.inLen.toNat ∧ s.readBytes 0 bytes.length = some bytes

end Sys2Proof.Machine
end

