-- ==== Sys2Proof/Safety.lean ====
section
/-! DEFINITION. What claims about packet_header_parser are stated in: runs without a model fault (spec/60_exceptions.md
R210) and the machine's invariant, which says phase by phase what the transaction has established
(spec/43_length_validator_fsm.md R150 to R155). -/

namespace Sys2Proof.Machine

/-- "no model fault recorded" (R210), k steps from s: none of them stopped (log 13), and no ReadInvalid stands recorded
at their end (log 27). No step clears the record, so none stood at s or on the way either. -/
def SafeRun (k : Nat) (s : State) : Prop := ∃ t, Host.Core.run core k s = .next t ∧ t.readInvalid = false

/-- Script lines that read no register and present windows of their own: LOAD of a window that can be presented (D21),
DECODE, DROP, reset, and NEXT. -/
def HostLine.isPacketLine : HostLine → Prop
  | .op (.load bytes) => bytes.length < 2 ^ 32
  | .op (.append _) => False
  | .op .decode => True
  | .op .advance => False
  | .op .drop => True
  | .op (.expect _ _) => False
  | .op .reset => True
  | .nextPacket => True
  | .feed _ => False

/-- `Σ_{i<n} Byte(a+i)·2^(8i)` over the window (R54), as R54 writes it. -/
def State.windowValue (s : State) (a n : Nat) : Nat :=
  ((List.range n).map fun i => (Memory.read s.inBuf (a + i)).toNat * 2 ^ (8 * i)).sum

/-- `signed(v) = v - 2^32 if v[31] = 1, else v` (R13). -/
def signed32 (v : Nat) : Int := if 2 ^ 31 ≤ v then (v : Int) - 2 ^ 32 else v

/-- Two machines whose windows agree on the first n bytes. -/
def State.agreeBelow (n : Nat) (s t : State) : Prop := ∀ a, a < n → Memory.read s.inBuf a = Memory.read t.inBuf a

/-- No HOST read tells the two apart: every register holds the same value, or none in both (R36). -/
def SameResults (r r' : Results) : Prop := ∀ x, readReg r x = readReg r' x

/-- The message registers (R27: "the H_*, B_* and CMD_CLASS registers"). -/
def Reg.isMessage : Reg → Prop
  | .resValid => False
  | .resStatus => False
  | .resConsumed => False
  | .msgValid => False
  | .hMagic => True
  | .hLogID => True
  | .hSequence => True
  | .hServiceID => True
  | .hCommand => True
  | .hCode => True
  | .hBodyLen => True
  | .hRsvd16 => True
  | .hRsvd32 => True
  | .bPrefix => True
  | .bData _ => True
  | .cmdClass => True

/-- What the HOST reads after an error of a status code: the code, `RES_CONSUMED = 0`, and no message (R103). -/
def ShowsError (r : Results) (code : Int) : Prop :=
  readReg r .resValid = some 1 ∧ readReg r .resStatus = some code ∧ readReg r .msgValid = some 0 ∧
    readReg r .resConsumed = some 0 ∧ ∀ x, x.isMessage → readReg r x = none

/-- What the HOST reads after a success write of a message (R102): every result register, and no value in the body
registers from the prefix on. -/
def ShowsMessage (r : Results) (h : Header) (p : Byte) (body : List Byte) (consumed : Word) (cls : BitVec 2) : Prop :=
  (readReg r .resValid = some 1 ∧ readReg r .resStatus = some 0 ∧ readReg r .msgValid = some 1 ∧
    readReg r .resConsumed = some consumed.toNat) ∧
  (readReg r .hMagic = some h.magic.toNat ∧ readReg r .hLogID = some h.logID.toNat ∧
    readReg r .hSequence = some h.sequence.toNat ∧ readReg r .hServiceID = some h.serviceID.toNat ∧
    readReg r .hCommand = some h.command.toNat ∧ readReg r .hCode = some h.code.toInt ∧
    readReg r .hBodyLen = some h.bodyLength.toNat ∧ readReg r .hRsvd16 = some h.rsvd16.toNat ∧
    readReg r .hRsvd32 = some h.rsvd32.toNat) ∧
  readReg r .bPrefix = some p.toNat ∧
  (∀ i (hi : i < body.length), readReg r (.bData i) = some body[i].toNat) ∧
  (∀ i, p.toNat ≤ i → readReg r (.bData i) = none) ∧
  readReg r .cmdClass = some cls.toNat

/-- The window passes every gate before PREFIX (R151, R140, R152, R153). -/
def State.passesLengthGates (s : State) : Prop :=
  32 ≤ s.inLen.toNat ∧ s.windowValue 0 4 = 0x20160905 ∧ 32 + s.windowValue 24 2 ≤ s.inLen.toNat ∧
    1 ≤ s.windowValue 24 2 ∧ s.windowValue 24 2 ≤ 255

/-- The gate's operation goes to ERR and changes nothing else but the error kind, and ERROR_WRITE there shows a
status code (R150, R103). -/
def RaisesAndReports (i : Instr) (s : State) (e : ErrorKind) (code : Int) : Prop :=
  exec i s = .next { s with phase := 9, tx := { s.tx with err := e } } ∧
    ∃ t, andThen (exec i s) (exec .errorWrite) = .next t ∧ ShowsError t.res code ∧ t.phase = 0

/-- What DECODE leaves alone: the window, its length (R57), the HOST's script, the model's own primitive port and the
record of ReadInvalid (logs 2, 7 and 27). -/
def State.samePorts (s t : State) : Prop :=
  t.inBuf = s.inBuf ∧ t.inLen = s.inLen ∧ (∀ a, t.byteAt a = s.byteAt a) ∧ t.script = s.script ∧
    t.primReq = s.primReq ∧ t.primOut = s.primOut ∧ t.readInvalid = s.readInvalid

/-- The invariant: legal data, and in each phase what the gates before it have established. -/
structure State.Inv (s : State) : Prop where
  /-- The window is in canonical form. -/
  memory : Memory.wf s.inBuf = true
  /-- `B_DATA` has 255 entries (R10, R30). -/
  bodyRegisters : s.res.bData.length = 255
  /-- `PHASE` is never reserved (R85, R150). -/
  phase : s.phase.toNat ≤ 9
  /-- Nothing of a transaction is left in IDLE (R157). -/
  idle : s.phase = 0 → s.tx = Tx.initial
  /-- Only FINISH looks at its parts (R85). -/
  finishFirst : s.phase ≠ 8 → s.finish = .consumed
  /-- `MSG_VALID` is 1 iff `RES_VALID = 1` and `RES_STATUS = OK` (R27). -/
  msgValid : s.res.msgValid = true ↔ s.res.resValid = true ∧ s.res.resStatus = 0
  /-- After an error `RES_CONSUMED` is 0 (R26). -/
  errorConsumed : s.res.resValid = true → s.res.resStatus ≠ 0 → s.res.resConsumed = 0
  /-- A valid message passed every gate (R154, R172, R173, R23 "equals MAGIC when valid"). -/
  message : s.res.msgValid = true →
    s.res.header.magic = 0x20160905#32 ∧ 1 ≤ s.res.header.bodyLength.toNat ∧ s.res.header.bodyLength.toNat ≤ 255 ∧
      s.res.resConsumed.toNat = 33 + s.res.bPrefix.toNat ∧ s.res.cmdClass = classify config s.res.header.command
  /-- From DESER to FINISH the header is in the window (R151). -/
  header : 2 ≤ s.phase.toNat → s.phase.toNat ≤ 8 → 32 ≤ s.inLen.toNat
  /-- From MAGIC to FINISH the header is deserialized (R124). -/
  deserialized : 3 ≤ s.phase.toNat → s.phase.toNat ≤ 8 → s.deserHeader = some s.tx.header
  /-- From CHK_BODY to FINISH the magic has passed (R140). -/
  magic : 4 ≤ s.phase.toNat → s.phase.toNat ≤ 8 → s.tx.header.magic = 0x20160905#32
  /-- From CHK_SIZE to FINISH the declared bytes are there (R152). -/
  declared : 5 ≤ s.phase.toNat → s.phase.toNat ≤ 8 → 32 + s.tx.header.bodyLength.toNat ≤ s.inLen.toNat
  /-- From PREFIX to FINISH the declared length is in range (R154). -/
  size : 6 ≤ s.phase.toNat → s.phase.toNat ≤ 8 →
    1 ≤ s.tx.header.bodyLength.toNat ∧ s.tx.header.bodyLength.toNat ≤ 255
  /-- In BODY and FINISH the prefix is the byte at offset 32 (R170). -/
  pfx : 7 ≤ s.phase.toNat → s.phase.toNat ≤ 8 → s.leU8 32 = some s.tx.pfx
  /-- In FINISH the body is the bytes after the prefix (R171). -/
  body : s.phase = 8 → s.readBytes 33 s.tx.pfx.toNat = some s.tx.body
  /-- In FINISH, after CONSUMED_CALC (R172). -/
  consumed : s.phase = 8 → s.finish ≠ .consumed → s.tx.consumed.toNat = 33 + s.tx.pfx.toNat
  /-- In FINISH, after CMD_CLASSIFY (R173). -/
  cls : s.phase = 8 → s.finish = .write → s.tx.cls = classify config s.tx.header.command
  /-- In ERR the error is the one DECODE reports for this window (R101, R205). -/
  err : s.phase = 9 → decodeVerdict config s = .raise s.tx.err

end Sys2Proof.Machine
end

