-- ==== Sys2Proof/Certificates/Slice0/Obligations.lean ====
section
/-! DEFINITION. The statements about packet_header_parser, from the numbered rules of spec/. -/

open Sys2Proof Sys2Proof.Machine

/-! ### Parameters, reset, the step -/

/-- R5, R6, R7: the parameters' values; the two command codes of R11 with them. -/
def Obligations.ParametersHoldTheDocumentsValues : Prop :=
  config.hdrLen = 32 ∧ config.magic.toNat = 0x20160905 ∧ config.maxBody = 254 ∧
    config.cmdHeartbeat.toNat = 0 ∧ config.cmdEcho.toNat = 1

/-- R37: what reset leaves. -/
def Obligations.ResetHoldsTheRulesValues : Prop :=
  State.reset.phase = 0 ∧ readReg State.reset.res .resValid = some 0 ∧ readReg State.reset.res .msgValid = some 0 ∧
    ∀ r, r ≠ .resValid → r ≠ .msgValid → readReg State.reset.res r = none

/-- R230: a HOST reset gives PHASE, the result registers and the flags of the reset state. The model's choices in it:
START is cleared with the block while the window, `IN_LEN`, the script and a recorded ReadInvalid stay (logs 19 and 27),
the local values are the initial ones (log 8), and the stored bits of the registers that hold no value are those of the reset state (log 4). -/
def Obligations.HostResetGivesTheResetState : Prop :=
  ∀ s, ∃ t, hostExec .reset s = .next t ∧ t.phase = 0 ∧ SameResults t.res State.reset.res ∧
    t.res = State.reset.res ∧ t.tx = State.reset.tx ∧ t.start = false ∧
    t.inLen = s.inLen ∧ (∀ a, t.byteAt a = s.byteAt a) ∧ t.script = s.script ∧ t.readInvalid = s.readInvalid

/-- The invariant holds at reset: PHASE and the two flags by R37, so R26 and R27 hold; that the local values and the part
of FINISH are the initial ones is the model's choice (logs 8 and 9). -/
def Obligations.ResetMeetsTheInvariant : Prop := State.reset.Inv

/-- Every step keeps the invariant (Safety.lean): canonical memory, legal phase, R27, R26, and phase by phase what the
gates and micro-operations before it establish (R150 to R155, R124, R140, R170 to R173, R101). The model's choices in it:
the local values are the initial ones in IDLE (R157; log 8), and which part of FINISH is next says which of the local
count and class are there (log 9). -/
def Obligations.EveryStepKeepsTheInvariant : Prop := ∀ s t, s.Inv → step s = .next t → t.Inv

/-- Under the invariant no step is the model fault BadPhase, and OutOfWindow comes only from a primitive run alone
(the model's own request, log 7), never from the block's own phases (R53, R150, R210). -/
def Obligations.InvariantExcludesTheBlocksModelFaults : Prop :=
  ∀ s, s.Inv → step s ≠ .fault .badPhase ∧
    (step s = .fault .outOfWindow → s.phase = 0 ∧ s.start = false ∧ s.primReq ≠ none)

/-- Between transactions the phase is IDLE: a step from IDLE ends in IDLE (R32). -/
def Obligations.IdleStepsEndInIdle : Prop := ∀ s t, s.phase = 0 → step s = .next t → t.phase = 0

/-- A step runs the operation that the word it fetches decodes to, and adds nothing around it; with no word to fetch
it is the HOST's move. Where the word stands is said too (R21, R82, R85; which comes first is log 1, the second byte of a
PHASE word is log 9, the primitive request is log 7). -/
def Obligations.StepRunsTheDecodedOperation : Prop :=
  (∀ s f bytes i rest, fetch s = some (f, bytes) → decode f bytes = .ok (i, rest) → step s = exec i s) ∧
  (∀ s, s.phase ≠ 0 → fetch s = some (.phase, [s.phase.setWidth 8, s.finish.index])) ∧
  (∀ s, s.phase = 0 → s.start = true → fetch s = some (.req, [1])) ∧
  (∀ s q, s.phase = 0 → s.start = false → s.primReq = some q →
    fetch s = some (.prim, q.sel.setWidth 8 :: leBytes 4 q.addr.toNat)) ∧
  (∀ s, s.phase = 0 → s.start = false → s.primReq = none → step s = hostStep s)

/-- R85: the phase register selects the micro-operation of a step. The model's choices in it: phase FINISH is three steps
(log 9), and in IDLE a step with nothing pending, no START, no lone primitive and no script, changes nothing
(logs 1, 2 and 7). -/
def Obligations.PhaseSelectsItsMicroOperation : Prop :=
  ∀ s,
    (s.phase = 0 → s.start = false → s.primReq = none → s.script = [] → step s = .next s) ∧
    (s.phase = 1 → step s = exec .hdrAvailCheck s) ∧
    (s.phase = 2 → step s = exec .deserHeader s) ∧
    (s.phase = 3 → step s = exec .magicCheck s) ∧
    (s.phase = 4 → step s = exec .bodyAvailCheck s) ∧
    (s.phase = 5 → step s = exec .sizeCheck s) ∧
    (s.phase = 6 → step s = exec .prefixRead s) ∧
    (s.phase = 7 → step s = exec .bodyExtract s) ∧
    (s.phase = 8 → s.finish = .consumed → step s = exec .consumedCalc s) ∧
    (s.phase = 8 → s.finish = .classify → step s = exec .cmdClassify s) ∧
    (s.phase = 8 → s.finish = .write → step s = exec .successWrite s) ∧
    (s.phase = 9 → step s = exec .errorWrite s) ∧
    (10 ≤ s.phase.toNat → step s = .fault .badPhase)

/-- R88: the packet's discriminators select at their phase: in MAGIC a magic field that decodes to PKT_MAGIC is that
operation, in FINISH the command field's row is the classification. That these rows are operations of their own is
log 22, that classification is a step of its own is log 9. -/
def Obligations.DiscriminatorsSelectAtTheirPhase : Prop :=
  (∀ s, s.phase = 3 → decodeMagic s.tx.header.magic = .ok .pktMagic → step s = exec .pktMagic s) ∧
  (∀ s, s.phase = 8 → s.finish = .classify → step s = exec (decodeCommand s.tx.header.command) s)

/-- R150: the transition table, row by row. -/
def Obligations.TransitionsFollowTheTable : Prop :=
  ∀ s,
    (s.phase = 0 → s.start = true → ∃ t, transition s = .next t ∧ t.phase = 1) ∧
    (s.phase = 0 → s.start = false → transition s = .next s) ∧
    (s.phase = 1 → 32 ≤ s.inLen.toNat → ∃ t, transition s = .next t ∧ t.phase = 2) ∧
    (s.phase = 1 → s.inLen.toNat < 32 →
      ∃ t, transition s = .next t ∧ t.phase = 9 ∧ t.tx.err = .insufficientData) ∧
    (s.phase = 2 → 32 ≤ s.inLen.toNat → ∃ t, transition s = .next t ∧ t.phase = 3) ∧
    (s.phase = 3 → s.tx.header.magic.toNat = 0x20160905 → ∃ t, transition s = .next t ∧ t.phase = 4) ∧
    (s.phase = 3 → s.tx.header.magic.toNat ≠ 0x20160905 →
      ∃ t, transition s = .next t ∧ t.phase = 9 ∧ t.tx.err = .illegalMagic) ∧
    (s.phase = 4 → 32 + s.tx.header.bodyLength.toNat ≤ s.inLen.toNat → ∃ t, transition s = .next t ∧ t.phase = 5) ∧
    (s.phase = 4 → s.inLen.toNat < 32 + s.tx.header.bodyLength.toNat →
      ∃ t, transition s = .next t ∧ t.phase = 9 ∧ t.tx.err = .insufficientData) ∧
    (s.phase = 5 → 1 ≤ s.tx.header.bodyLength.toNat → s.tx.header.bodyLength.toNat ≤ 255 →
      ∃ t, transition s = .next t ∧ t.phase = 6) ∧
    (s.phase = 5 → (s.tx.header.bodyLength.toNat = 0 ∨ 256 ≤ s.tx.header.bodyLength.toNat) →
      ∃ t, transition s = .next t ∧ t.phase = 9 ∧ t.tx.err = .oversizedPackage) ∧
    (s.phase = 6 → 33 ≤ s.inLen.toNat → ∃ t, transition s = .next t ∧ t.phase = 7) ∧
    (s.phase = 6 → s.inLen.toNat < 33 →
      ∃ t, transition s = .next t ∧ t.phase = 9 ∧ t.tx.err = .insufficientData) ∧
    (s.phase = 7 → 33 + s.tx.pfx.toNat ≤ s.inLen.toNat → ∃ t, transition s = .next t ∧ t.phase = 8) ∧
    (s.phase = 7 → s.inLen.toNat < 33 + s.tx.pfx.toNat →
      ∃ t, transition s = .next t ∧ t.phase = 9 ∧ t.tx.err = .insufficientData) ∧
    (s.phase = 8 → ∃ t, transition s = .next t ∧ t.phase = 0 ∧ readReg t.res .resStatus = some 0) ∧
    (s.phase = 9 → ∃ t, transition s = .next t ∧ t.phase = 0 ∧
      ShowsError t.res s.tx.err.status.toNat) ∧
    (10 ≤ s.phase.toNat → transition s = .fault .badPhase)

/-! ### The deserializer -/

/-- R54: `MemRead(a, n)` is `Σ_{i<n} Byte(a+i)·2^(8i)` where its bytes are in the window, and nothing elsewhere. -/
def Obligations.MemReadIsTheLittleEndianSum : Prop :=
  ∀ (s : State) (a n : Nat), 0 < n →
    (a + n ≤ s.inLen.toNat → s.memRead a n = some (s.windowValue a n)) ∧
      (s.inLen.toNat < a + n → s.memRead a n = none)

/-- R120 to R123: the primitives' values, and the model fault where the bytes are not in the window (R51). "The value
goes to the caller": that the caller is the model's own port, which takes the value and drops the request, is log 7. -/
def Obligations.PrimitivesReturnTheirFields : Prop :=
  ∀ (s : State) (a : Word),
    (a.toNat + 1 ≤ s.inLen.toNat →
      exec (.leU8 a) s = .next { s with primOut := (s.windowValue a.toNat 1 : Int), primReq := none }) ∧
    (a.toNat + 2 ≤ s.inLen.toNat →
      exec (.leU16 a) s = .next { s with primOut := (s.windowValue a.toNat 2 : Int), primReq := none }) ∧
    (a.toNat + 4 ≤ s.inLen.toNat →
      exec (.leU32 a) s = .next { s with primOut := (s.windowValue a.toNat 4 : Int), primReq := none }) ∧
    (a.toNat + 4 ≤ s.inLen.toNat →
      exec (.leS32 a) s = .next { s with primOut := signed32 (s.windowValue a.toNat 4), primReq := none }) ∧
    (s.inLen.toNat < a.toNat + 1 → exec (.leU8 a) s = .fault .outOfWindow) ∧
    (s.inLen.toNat < a.toNat + 2 → exec (.leU16 a) s = .fault .outOfWindow) ∧
    (s.inLen.toNat < a.toNat + 4 → exec (.leU32 a) s = .fault .outOfWindow) ∧
    (s.inLen.toNat < a.toNat + 4 → exec (.leS32 a) s = .fault .outOfWindow)

/-- R124: DESER_HEADER reads the nine fields of R70 and changes nothing but the local header and the phase. -/
def Obligations.DeserHeaderReadsTheNineFields : Prop :=
  ∀ s : State, 32 ≤ s.inLen.toNat →
    ∃ h : Header, exec .deserHeader s = .next { s with tx := { s.tx with header := h }, phase := 3 } ∧
      h.magic.toNat = s.windowValue 0 4 ∧ h.logID.toNat = s.windowValue 4 4 ∧
      h.sequence.toNat = s.windowValue 8 4 ∧ h.serviceID.toNat = s.windowValue 12 4 ∧
      h.command.toNat = s.windowValue 16 4 ∧ h.code.toInt = signed32 (s.windowValue 20 4) ∧
      h.bodyLength.toNat = s.windowValue 24 2 ∧ h.rsvd16.toNat = s.windowValue 26 2 ∧
      h.rsvd32.toNat = s.windowValue 28 4

/-! ### The gates -/

/-- R151: HDR_AVAIL_CHECK. -/
def Obligations.HdrAvailCheckTestsThirtyTwoBytes : Prop :=
  ∀ s : State,
    (32 ≤ s.inLen.toNat → exec .hdrAvailCheck s = .next { s with phase := 2 }) ∧
      (s.inLen.toNat ≤ 31 → RaisesAndReports .hdrAvailCheck s .insufficientData 1)

/-- R140: MAGIC_CHECK, and PKT_MAGIC, whose match "gate passes". -/
def Obligations.MagicCheckComparesAllBits : Prop :=
  ∀ s : State,
    (s.tx.header.magic.toNat = 0x20160905 → exec .magicCheck s = .next { s with phase := 4 }) ∧
      (s.tx.header.magic.toNat ≠ 0x20160905 → RaisesAndReports .magicCheck s .illegalMagic 2)

/-- R88, R140: PKT_MAGIC "selects acceptance by the magic gate"; that it is an operation of its own is log 22. -/
def Obligations.PktMagicPassesTheGate : Prop := ∀ s : State, exec .pktMagic s = .next { s with phase := 4 }

/-- R152: BODY_AVAIL_CHECK. -/
def Obligations.BodyAvailCheckTestsDeclaredBytes : Prop :=
  ∀ s : State,
    (32 + s.tx.header.bodyLength.toNat ≤ s.inLen.toNat → exec .bodyAvailCheck s = .next { s with phase := 5 }) ∧
      (s.inLen.toNat < 32 + s.tx.header.bodyLength.toNat → RaisesAndReports .bodyAvailCheck s .insufficientData 1)

/-- R153, R154: SIZE_CHECK passes 1 to 255 and rejects 0 and 256 on. -/
def Obligations.SizeCheckPassesOneToTwoFiftyFive : Prop :=
  ∀ s : State,
    (1 ≤ s.tx.header.bodyLength.toNat → s.tx.header.bodyLength.toNat ≤ 255 →
      exec .sizeCheck s = .next { s with phase := 6 }) ∧
    (s.tx.header.bodyLength.toNat = 0 ∨ 256 ≤ s.tx.header.bodyLength.toNat →
      RaisesAndReports .sizeCheck s .oversizedPackage 3)

/-! ### Prefix, body, consumed, class -/

/-- R170: PREFIX_READ. -/
def Obligations.PrefixReadTakesTheByteAtThirtyTwo : Prop :=
  ∀ s : State,
    (33 ≤ s.inLen.toNat →
      exec .prefixRead s = .next { s with tx := { s.tx with pfx := Memory.read s.inBuf 32 }, phase := 7 }) ∧
    (s.inLen.toNat < 33 → RaisesAndReports .prefixRead s .insufficientData 1)

/-- R171, R150: BODY_EXTRACT copies the p bytes after the prefix and goes to FINISH, or raises; never a short body. That
the first part of FINISH is next is the model's choice (log 9). -/
def Obligations.BodyExtractCopiesTheWholeBody : Prop :=
  ∀ s : State,
    (33 + s.tx.pfx.toNat ≤ s.inLen.toNat →
      ∃ body : List Byte,
        exec .bodyExtract s = .next { s with tx := { s.tx with body := body }, phase := 8, finish := .consumed } ∧
        body.length = s.tx.pfx.toNat ∧ ∀ i (hi : i < body.length), body[i] = Memory.read s.inBuf (33 + i)) ∧
    (s.inLen.toNat < 33 + s.tx.pfx.toNat → RaisesAndReports .bodyExtract s .insufficientData 1)

/-- R172: CONSUMED_CALC is 33 + p, between 33 and 288. That CMD_CLASSIFY is next is the model's choice (log 9). -/
def Obligations.ConsumedCalcIsThirtyThreePlusPrefix : Prop :=
  ∀ s : State, ∃ c : Word,
    exec .consumedCalc s = .next { s with tx := { s.tx with consumed := c }, finish := .classify } ∧
      c.toNat = 33 + s.tx.pfx.toNat ∧ 33 ≤ c.toNat ∧ c.toNat ≤ 288

/-- R173, R84: CMD_CLASSIFY, the classes and their names; never an error. That the success write is next is the model's
choice (log 9). -/
def Obligations.CmdClassifyNamesTheCommand : Prop :=
  ∀ s : State, ∃ cls : BitVec 2,
    exec .cmdClassify s = .next { s with tx := { s.tx with cls := cls }, finish := .write } ∧
      (s.tx.header.command.toNat = 0 → cls.toNat = 0 ∧ className cls = some "heartbeat") ∧
      (s.tx.header.command.toNat = 1 → cls.toNat = 1 ∧ className cls = some "echo") ∧
      (2 ≤ s.tx.header.command.toNat → cls.toNat = 2 ∧ className cls = some "unknown")

/-- R88, R173: the discriminator rows give their class, and CMD_CLASSIFY is the row its command field selects; that a
row is an operation of its own is log 22, that the success write is next is log 9. -/
def Obligations.CommandRowsGiveTheirClass : Prop :=
  ∀ (s : State) (c : Word),
    exec .cmdHeartbeat s = .next { s with tx := { s.tx with cls := 0 }, finish := .write } ∧
    exec .cmdEcho s = .next { s with tx := { s.tx with cls := 1 }, finish := .write } ∧
    exec (.cmdUnknown c) s = .next { s with tx := { s.tx with cls := 2 }, finish := .write } ∧
    exec .cmdClassify s = exec (decodeCommand s.tx.header.command) s

/-! ### The two result writes -/

/-- R102: SUCCESS_WRITE shows the transaction's message in every result register, and goes to IDLE. -/
def Obligations.SuccessWriteShowsTheMessage : Prop :=
  ∀ s : State, s.tx.body.length = s.tx.pfx.toNat →
    ∃ t, exec .successWrite s = .next t ∧ t.phase = 0 ∧
      ShowsMessage t.res s.tx.header s.tx.pfx s.tx.body s.tx.consumed s.tx.cls ∧ s.samePorts t ∧ t.start = s.start

/-- R103, R83: ERROR_WRITE shows the error's status code, 0 consumed and no message, and goes to IDLE. -/
def Obligations.ErrorWriteShowsNoMessage : Prop :=
  ∀ s : State, ∃ t, exec .errorWrite s = .next t ∧ t.phase = 0 ∧ s.samePorts t ∧ t.start = s.start ∧
    (s.tx.err = .insufficientData → ShowsError t.res 1) ∧ (s.tx.err = .illegalMagic → ShowsError t.res 2) ∧
    (s.tx.err = .oversizedPackage → ShowsError t.res 3)

/-! ### DECODE -/

/-- R53, R104: every DECODE ends in IDLE with a result; none of its reads leaves the window; the window and the HOST's
side are as before (R57). That START is back to 0 is log 3, that the local values are back to their initial ones is
log 8 (R157), that the part of FINISH is back to the first is log 9. -/
def Obligations.EveryDecodeCompletes : Prop :=
  ∀ s : State, ∃ t, exec .decode s = .next t ∧ t.phase = 0 ∧ t.start = false ∧ s.samePorts t ∧
    readReg t.res .resValid = some 1 ∧ t.tx = Tx.initial ∧ t.finish = .consumed

/-- R201 to R203, R205: which status DECODE reports, exactly, the first failing gate winning. -/
def Obligations.DecodeReportsTheFirstFailingGate : Prop :=
  ∀ s : State, ∃ t, exec .decode s = .next t ∧
    (ShowsError t.res 1 ↔ s.inLen.toNat < 32 ∨ (s.windowValue 0 4 = 0x20160905 ∧
      (s.inLen.toNat < 32 + s.windowValue 24 2 ∨
        (1 ≤ s.windowValue 24 2 ∧ s.windowValue 24 2 ≤ 255 ∧ s.inLen.toNat < 33 + s.windowValue 32 1)))) ∧
    (ShowsError t.res 2 ↔ 32 ≤ s.inLen.toNat ∧ s.windowValue 0 4 ≠ 0x20160905) ∧
    (ShowsError t.res 3 ↔ 32 ≤ s.inLen.toNat ∧ s.windowValue 0 4 = 0x20160905 ∧
      32 + s.windowValue 24 2 ≤ s.inLen.toNat ∧ (s.windowValue 24 2 = 0 ∨ 256 ≤ s.windowValue 24 2)) ∧
    (readReg t.res .resStatus = some 0 ↔ s.passesLengthGates ∧ 33 + s.windowValue 32 1 ≤ s.inLen.toNat)

/-- R102 for DECODE: a window that passes every gate gives every result register its value. -/
def Obligations.DecodeShowsTheWindowsMessage : Prop :=
  ∀ s : State, s.passesLengthGates → 33 + s.windowValue 32 1 ≤ s.inLen.toNat →
    ∃ t h p body consumed cls, exec .decode s = .next t ∧ t.phase = 0 ∧ ShowsMessage t.res h p body consumed cls ∧
      h.magic.toNat = s.windowValue 0 4 ∧ h.logID.toNat = s.windowValue 4 4 ∧
      h.sequence.toNat = s.windowValue 8 4 ∧ h.serviceID.toNat = s.windowValue 12 4 ∧
      h.command.toNat = s.windowValue 16 4 ∧ h.code.toInt = signed32 (s.windowValue 20 4) ∧
      h.bodyLength.toNat = s.windowValue 24 2 ∧ h.rsvd16.toNat = s.windowValue 26 2 ∧
      h.rsvd32.toNat = s.windowValue 28 4 ∧
      p.toNat = s.windowValue 32 1 ∧ body.length = p.toNat ∧
      (∀ i (hi : i < body.length), body[i] = Memory.read s.inBuf (33 + i)) ∧
      consumed.toNat = 33 + p.toNat ∧
      (s.windowValue 16 4 = 0 → cls.toNat = 0) ∧ (s.windowValue 16 4 = 1 → cls.toNat = 1) ∧
      (2 ≤ s.windowValue 16 4 → cls.toNat = 2)

/-- R39, R60: a DECODE's result is a function of `min(IN_LEN, 32 + 65535)` and of the first `min(IN_LEN, 288)` bytes,
and of nothing else in the machine. -/
def Obligations.DecodeDependsOnTheWindowOnly : Prop :=
  ∀ s s' : State, min s.inLen.toNat (32 + 65535) = min s'.inLen.toNat (32 + 65535) →
    State.agreeBelow (min s.inLen.toNat 288) s s' →
    ∃ t t', exec .decode s = .next t ∧ exec .decode s' = .next t' ∧ SameResults t.res t'.res

/-- R59: a second DECODE of the same window shows the same results. -/
def Obligations.DecodeIsIdempotent : Prop :=
  ∀ s : State, ∃ t u, exec .decode s = .next t ∧ exec .decode t = .next u ∧ SameResults t.res u.res

/-- R105: a window that begins with an accepted packet of length c decodes to that packet's message whatever follows
it; ADVANCE then presents the rest, and the next DECODE is a DECODE of the rest alone. -/
def Obligations.MultiPacketWindowsDecodeOneByOne : Prop :=
  ∀ (s w t : State) (c : Nat), s.inLen.toNat = c → exec .decode s = .next t →
    readReg t.res .resStatus = some 0 → readReg t.res .resConsumed = some (c : Int) →
    c ≤ w.inLen.toNat → State.agreeBelow c s w →
    ∃ t' u x, exec .decode w = .next t' ∧ SameResults t.res t'.res ∧ hostExec .advance t' = .next u ∧
      u.inLen.toNat + c = w.inLen.toNat ∧ (∀ a, u.byteAt a = w.byteAt (c + a)) ∧ exec .decode u = .next x ∧
      ∀ v : State, v.inLen.toNat + c = w.inLen.toNat → (∀ a, v.byteAt a = w.byteAt (c + a)) →
        ∃ y, exec .decode v = .next y ∧ SameResults x.res y.res

/-- R106: DECODE of a window that begins with the wire image of a consistent message gives the message back. -/
def Obligations.DecodeReadsBackTheWireImage : Prop :=
  ∀ (s : State) (h : Header) (body : List Byte), h.magic.toNat = 0x20160905 → body.length ≤ 254 →
    h.bodyLength.toNat = 1 + body.length → s.windowBegins (wireImage h body) →
    ∃ t, exec .decode s = .next t ∧
      ShowsMessage t.res h (BitVec.ofNat 8 body.length) body (BitVec.ofNat 32 (33 + body.length))
        (classify config h.command) ∧
      (wireImage h body).length = 33 + body.length

/-- R107: every proper beginning of a consistent packet is INSUFFICIENT_DATA. -/
def Obligations.TruncatedPacketsAreInsufficient : Prop :=
  ∀ (s : State) (h : Header) (body : List Byte), h.magic.toNat = 0x20160905 → body.length ≤ 254 →
    h.bodyLength.toNat = 1 + body.length → s.inLen.toNat < 33 + body.length →
    s.readBytes 0 s.inLen.toNat = some ((wireImage h body).take s.inLen.toNat) →
    ∃ t, exec .decode s = .next t ∧ ShowsError t.res 1

/-- R108, R142: with a header in the window, ILLEGAL_MAGIC is reported exactly where bytes 0..3 are not
`05 09 16 20`, whatever the other bytes are, and then never OK. -/
def Obligations.MagicGatePassesExactlyTheFourBytes : Prop :=
  ∀ s : State, 32 ≤ s.inLen.toNat →
    ∃ t, exec .decode s = .next t ∧
      (s.readBytes 0 4 = some [0x05, 0x09, 0x16, 0x20] → readReg t.res .resStatus ≠ some 2) ∧
      (s.readBytes 0 4 ≠ some [0x05, 0x09, 0x16, 0x20] → ShowsError t.res 2)

/-- R109: bodyLength of 256 or more is OVERSIZED_PACKAGE once its bytes are there and INSUFFICIENT_DATA before;
bodyLength 255 is not oversized. -/
def Obligations.OversizeIsReportedOnceTheBytesAreThere : Prop :=
  ∀ s : State, 32 ≤ s.inLen.toNat → s.windowValue 0 4 = 0x20160905 →
    ∃ t, exec .decode s = .next t ∧
      (256 ≤ s.windowValue 24 2 → 32 + s.windowValue 24 2 ≤ s.inLen.toNat → ShowsError t.res 3) ∧
      (256 ≤ s.windowValue 24 2 → s.inLen.toNat < 32 + s.windowValue 24 2 → ShowsError t.res 1) ∧
      (s.windowValue 24 2 = 255 → readReg t.res .resStatus ≠ some 3)

/-- R174: packets whose prefix differs from bodyLength - 1. -/
def Obligations.InconsistentPacketsFollowThePrefix : Prop :=
  ∀ s : State, s.passesLengthGates →
    ∃ t, exec .decode s = .next t ∧
      (s.windowValue 32 1 + 1 < s.windowValue 24 2 →
        readReg t.res .resStatus = some 0 ∧ readReg t.res .resConsumed = some (33 + s.windowValue 32 1 : Int) ∧
          33 + s.windowValue 32 1 < 32 + s.windowValue 24 2 ∧
          (∀ i, i < s.windowValue 32 1 →
            readReg t.res (.bData i) = some ((Memory.read s.inBuf (33 + i)).toNat : Int)) ∧
          ∀ i, s.windowValue 32 1 ≤ i → readReg t.res (.bData i) = none) ∧
      (s.windowValue 24 2 < s.windowValue 32 1 + 1 → 33 + s.windowValue 32 1 ≤ s.inLen.toNat →
        readReg t.res .resStatus = some 0 ∧ readReg t.res .resConsumed = some (33 + s.windowValue 32 1 : Int) ∧
          ∀ i, i < s.windowValue 32 1 →
            readReg t.res (.bData i) = some ((Memory.read s.inBuf (33 + i)).toNat : Int)) ∧
      (s.windowValue 24 2 < s.windowValue 32 1 + 1 → s.inLen.toNat < 33 + s.windowValue 32 1 → ShowsError t.res 1)

/-- R29, R77: the reserved bytes 26 to 31 reach `H_RSVD16` and `H_RSVD32` as received and nothing else: two windows that
differ in them alone give the same results in every other register. -/
def Obligations.ReservedFieldsPassThroughUnexamined : Prop :=
  ∀ s s' : State, s.inLen = s'.inLen → (∀ a, a < 26 ∨ 32 ≤ a → Memory.read s.inBuf a = Memory.read s'.inBuf a) →
    ∃ t t', exec .decode s = .next t ∧ exec .decode s' = .next t' ∧
      (∀ r, r ≠ .hRsvd16 → r ≠ .hRsvd32 → readReg t.res r = readReg t'.res r) ∧
      (readReg t.res .msgValid = some 1 → readReg t.res .hRsvd16 = some (s.windowValue 26 2 : Int) ∧
        readReg t.res .hRsvd32 = some (s.windowValue 28 4 : Int))

/-- R156, R150, R100: from START the phase machine of R150 is back in IDLE after at most 9 transitions, and what it leaves
is what the one atomic DECODE of R100 leaves. -/
def Obligations.PhaseMachineIsDecodeInNineTransitions : Prop :=
  ∀ s : State, s.phase = 0 → s.start = true → runToIdle 9 s = some (exec .decode s)

/-- R150, R100: the same for the machine's own steps, one micro-operation each: from CHK_HDR at most 10 of them are DECODE.
That FINISH takes three steps is log 9; that the entry into CHK_HDR (`State.enter`) stands outside step, whose START is
the whole DECODE, is log 1. -/
def Obligations.MicroStepsAreDecode : Prop :=
  ∀ s : State, s.phase = 0 → s.start = true →
    ∃ k, k ≤ 10 ∧ Host.Core.run core k s.enter = exec .decode s

/-- R172: `consumed ≤ IN_LEN` and at most 288, so an ADVANCE after a DECODE never asks for more than the window
holds. -/
def Obligations.AdvanceAfterDecodeStaysInTheWindow : Prop :=
  ∀ s : State, ∃ t u, exec .decode s = .next t ∧ t.res.resConsumed.toNat ≤ t.inLen.toNat ∧
    t.res.resConsumed.toNat ≤ 288 ∧ hostExec .advance t = .next u

/-! ### Rules about the whole machine -/

/-- R23, R35: only DECODE and its two result writes, and reset, write a result register. -/
def Obligations.OnlyResultWritesChangeTheResults : Prop :=
  (∀ i s t, exec i s = .next t → i ≠ .decode → i ≠ .successWrite → i ≠ .errorWrite → t.res = s.res) ∧
    (∀ o s t, hostExec o s = .next t → o ≠ .decode → o ≠ .reset → t.res = s.res)

/-- R50, R57: no operation of the block writes the window: its length and every byte of it stay. -/
def Obligations.NoOperationWritesTheWindow : Prop :=
  ∀ i s t, exec i s = .next t →
    t.inLen = s.inLen ∧ (∀ a, Memory.read t.inBuf a = Memory.read s.inBuf a) ∧ ∀ a, t.byteAt a = s.byteAt a

/-- R24: the first DECODE sets `RES_VALID`, nothing but a reset clears it, and while it is 0 the status and the
consumed count hold no value. -/
def Obligations.ResValidIsClearedByResetOnly : Prop :=
  readReg State.reset.res .resValid = some 0 ∧
  (∀ s, ∃ t, exec .decode s = .next t ∧ readReg t.res .resValid = some 1) ∧
  (∀ s t, readReg s.res .resValid = some 1 → step s = .next t → readReg t.res .resValid ≠ some 1 →
    fetch s = none ∧ s.script.head? = some .reset) ∧
  (∀ s : State, readReg s.res .resValid = some 0 →
    readReg s.res .resStatus = none ∧ readReg s.res .resConsumed = none)

/-- R27: `MSG_VALID` is 0 after reset; a DECODE leaves it 1 iff it leaves `RES_STATUS = OK`; after every step from a state
of the invariant, and in the state itself, it is 1 iff `RES_VALID = 1` and `RES_STATUS = OK`, and while it is 0 the
message registers hold no value. -/
def Obligations.MsgValidIsOneExactlyWhenOk : Prop :=
  readReg State.reset.res .msgValid = some 0 ∧
  (∀ s : State, ∃ t, exec .decode s = .next t ∧
    (readReg t.res .msgValid = some 1 ↔ readReg t.res .resStatus = some 0)) ∧
  (∀ s t : State, s.Inv → step s = .next t →
    (readReg t.res .msgValid = some 1 ↔ readReg t.res .resValid = some 1 ∧ readReg t.res .resStatus = some 0) ∧
    (readReg t.res .msgValid = some 0 → ∀ r, r.isMessage → readReg t.res r = none)) ∧
  ∀ s : State, s.Inv →
    (readReg s.res .msgValid = some 1 ↔ readReg s.res .resValid = some 1 ∧ readReg s.res .resStatus = some 0) ∧
    (readReg s.res .msgValid = some 0 → ∀ r, r.isMessage → readReg s.res r = none)

/-! ### The HOST's side -/

/-- R36: a HOST read of a register that holds no value by R24, R27 or R30 raises ReadInvalid, whatever bits stand there,
and so does ADVANCE while `RES_VALID = 0` (R90, R210); a read of a value changes nothing. That the fault is recorded in
State and the HOST goes on, with the assertion not judged and the window advanced by a free count, is log 27. -/
def Obligations.ReadsOfNoValueRaiseReadInvalid : Prop :=
  (∀ (s : State) (v : Int), readReg s.res .resValid = some 0 →
    hostExec (.expect .resStatus v) s = .next { s with readInvalid := true } ∧
    hostExec (.expect .resConsumed v) s = .next { s with readInvalid := true }) ∧
  (∀ s : State, readReg s.res .resValid = some 0 →
    ∃ t n, hostExec .advance s = .next t ∧ t.readInvalid = true ∧
      t = { s with inBuf := t.inBuf, inLen := t.inLen, draws := s.draws + 1, readInvalid := true } ∧
      t.inLen.toNat + n = s.inLen.toNat ∧ ∀ a, t.byteAt a = s.byteAt (n + a)) ∧
  (∀ (s : State) (r : Reg) (v : Int), readReg s.res .msgValid = some 0 → r.isMessage →
    hostExec (.expect r v) s = .next { s with readInvalid := true }) ∧
  (∀ (s : State) (i p : Nat) (v : Int), readReg s.res .bPrefix = some (p : Int) → p ≤ i →
    hostExec (.expect (.bData i) v) s = .next { s with readInvalid := true }) ∧
  (∀ (s : State) (r : Reg) (v : Int), readReg s.res r = some v → hostExec (.expect r v) s = .next s)

/-- R210: a recorded ReadInvalid is never cleared, no operation of the block records it, and a step that records it is the
HOST's EXPECT on a register with no value or its ADVANCE while `RES_VALID = 0`. So a run at whose end no model fault is
recorded had none recorded at its start or on the way. That the record is a field of State is log 27, that the HOST's
moves are a script is log 2. -/
def Obligations.RecordedReadInvalidIsNeverCleared : Prop :=
  (∀ i s t, exec i s = .next t → t.readInvalid = s.readInvalid) ∧
  (∀ s t, step s = .next t → s.readInvalid = true → t.readInvalid = true) ∧
  (∀ s t, step s = .next t → s.readInvalid = false → t.readInvalid = true → fetch s = none ∧
    ((s.script.head? = some .advance ∧ s.res.resValid = false) ∨
      ∃ r v, s.script.head? = some (.expect r v) ∧ readReg s.res r = none)) ∧
  (∀ k s, SafeRun k s → s.readInvalid = false ∧ ∀ j, j ≤ k → SafeRun j s)

/-- R90: LOAD, APPEND and DROP set the window and its length, byte for byte, and nothing else. -/
def Obligations.HostPresentsTheWindow : Prop :=
  (∀ (s : State) (bytes : List Byte), bytes.length < 2 ^ 32 →
    ∃ t, hostExec (.load bytes) s = .next t ∧ t = { s with inBuf := t.inBuf, inLen := t.inLen } ∧
      t.inLen.toNat = bytes.length ∧ ∀ i (hi : i < bytes.length), t.byteAt i = some bytes[i]) ∧
  (∀ (s : State) (bytes : List Byte), Memory.wf s.inBuf = true → s.inLen.toNat + bytes.length < 2 ^ 32 →
    ∃ t, hostExec (.append bytes) s = .next t ∧ t = { s with inBuf := t.inBuf, inLen := t.inLen } ∧
      t.inLen.toNat = s.inLen.toNat + bytes.length ∧ (∀ a, a < s.inLen.toNat → t.byteAt a = s.byteAt a) ∧
      ∀ i (hi : i < bytes.length), t.byteAt (s.inLen.toNat + i) = some bytes[i]) ∧
  (∀ s : State, ∃ t, hostExec .drop s = .next t ∧ t = { s with inBuf := t.inBuf, inLen := 0 } ∧
    ∀ a, t.byteAt a = none)

/-- R90, R236: ADVANCE drops `RES_CONSUMED` bytes; after an error none. Past the window's end it completes too, with the
window from there on and an `IN_LEN` that nothing is said of: that value is free (log 15). -/
def Obligations.AdvanceDropsTheConsumedBytes : Prop :=
  (∀ s : State, s.res.resValid = true → s.res.resConsumed.toNat ≤ s.inLen.toNat →
    ∃ t, hostExec .advance s = .next t ∧ t = { s with inBuf := t.inBuf, inLen := t.inLen } ∧
      t.inLen.toNat + s.res.resConsumed.toNat = s.inLen.toNat ∧
      ∀ a, t.byteAt a = s.byteAt (s.res.resConsumed.toNat + a)) ∧
  (∀ s : State, s.res.resValid = true → s.inLen.toNat < s.res.resConsumed.toNat →
    ∃ t, hostExec .advance s = .next t ∧
      t = { s with inBuf := t.inBuf, inLen := t.inLen, draws := s.draws + 1 } ∧
      ∀ a, Memory.read t.inBuf a = Memory.read s.inBuf (s.res.resConsumed.toNat + a)) ∧
  (∀ s : State, s.Inv → s.res.resValid = true → readReg s.res .resStatus ≠ some 0 →
    ∃ t, hostExec .advance s = .next t ∧ t.inLen = s.inLen ∧ ∀ a, t.byteAt a = s.byteAt a)

/-- R61, R64: a script that loads a window and decodes it reads, two steps on, the results of a DECODE of just those
bytes, whatever came before. -/
def Obligations.LoadThenDecodeSeesTheLoadedWindow : Prop :=
  ∀ (s : State) (bytes : List Byte) (rest : List HostOp), s.phase = 0 → s.start = false → s.primReq = none →
    s.script = .load bytes :: .decode :: rest → bytes.length < 2 ^ 32 →
    ∃ t, Host.Core.run core 2 s = .next t ∧ t.script = rest ∧ t.phase = 0 ∧
      ∀ v : State, v.inLen.toNat = bytes.length → (∀ i (hi : i < bytes.length), v.byteAt i = some bytes[i]) →
        ∃ x, exec .decode v = .next x ∧ SameResults t.res x.res

/-- R91, R210, R236: a script of LOAD, DECODE, DROP, reset and NEXT lines runs to its end without a model fault, one step
an operation, whatever its packets hold. It records none, and the run is safe where none was recorded before. -/
def Obligations.PacketScriptsNeverStop : Prop :=
  ∀ (s : State) (lines : List HostLine), s.phase = 0 → s.start = false → s.primReq = none →
    s.script = expandScript lines → (∀ l ∈ lines, l.isPacketLine) →
    (∃ t, Host.Core.run core (expandScript lines).length s = .next t ∧ t.script = [] ∧ t.phase = 0 ∧
      t.readInvalid = s.readInvalid) ∧
    (s.readInvalid = false → SafeRun (expandScript lines).length s)

/-! ### Encoding -/

/-- R82, R85, R86, R88: decoding the bytes of a well-formed instruction gives it back, whatever bytes follow. The second
byte of a PHASE word is log 9, the offset bytes of a PRIM word are log 7. -/
def Obligations.DecodeOfEncodeIsTheInstruction : Prop :=
  ∀ (i : Instr) (rest : List Byte), WellFormed i → decode i.format (encode i ++ rest) = .ok (i, rest)

/-- R84, R85, R86, R88: what decodes is well formed, stands in the space it was read from, and used that space's number of
bytes. That a PHASE word has two bytes is log 9, that a PRIM word has five is log 7. -/
def Obligations.DecodedInstructionsAreWellFormed : Prop :=
  ∀ f bytes i rest, decode f bytes = .ok (i, rest) →
    WellFormed i ∧ i.format = f ∧ bytes.length = f.size + rest.length

/-- R88: the encoded word of every instruction matches its row of the opcode table, mask and match. The bytes that the
model adds (logs 7 and 9) lie outside the masks. -/
def Obligations.EncodedWordsMatchTheOpcodeTable : Prop :=
  ∀ i : Instr, i.row.format = i.format ∧ leValue (encode i) &&& i.row.mask = i.row.pattern

/-- A few words written out from R82, R85, R86, R72 and R11, and what they decode to. That a PHASE word has a second byte
(log 9) and a PRIM word four offset bytes (log 7) is the model's choice. -/
def Obligations.WrittenWordsDecode : Prop :=
  decode .req [0b00000001] = .ok (.decode, []) ∧
  decode .phase [0b00000010, 0] = .ok (.deserHeader, []) ∧
  decode .phase [0b00001001, 0] = .ok (.errorWrite, []) ∧
  decode .phase [0b00001010, 0] = .error .reservedPhase ∧
  decode .prim [0b00000011, 20, 0, 0, 0] = .ok (.leS32 20, []) ∧
  decode .magic [0x05, 0x09, 0x16, 0x20] = .ok (.pktMagic, []) ∧
  decode .magic [0x20, 0x16, 0x09, 0x05] = .error .illegalMagic ∧
  decode .command [1, 0, 0, 0] = .ok (.cmdEcho, [])
end

