-- ==== Sys2Proof/Laws/Encoding.lean ====
section
/-! SUPPORT. Byte order: numbers to bytes and back. -/

namespace Sys2Proof

@[simp] theorem leBytes_length (n v : Nat) : (leBytes n v).length = n := by
  induction n generalizing v with
  | zero => rfl
  | succ n ih => simp [leBytes, ih]

/-- The number of n bytes is below 2^(8n). -/
theorem leValue_lt (bs : List Byte) : leValue bs < 256 ^ bs.length := by
  induction bs with
  | nil => simp [leValue]
  | cons b bs ih =>
    have hb := b.isLt
    simp only [leValue, List.length_cons, Nat.pow_succ]
    omega

/-- A number's bytes stand for the number, cut to their width. -/
theorem leValue_leBytes (n v : Nat) : leValue (leBytes n v) = v % 256 ^ n := by
  induction n generalizing v with
  | zero => simp [leBytes, leValue, Nat.mod_one]
  | succ n ih =>
    rw [leBytes, leValue, ih, BitVec.toNat_ofNat, show 256 ^ (n + 1) = 256 * 256 ^ n from Nat.pow_succ', Nat.mod_mul]

/-- A 32-bit word is taken back from its four bytes. -/
theorem takeWord_leBytes (w : Word) (rest : List Byte) :
    takeWord (leBytes 4 w.toNat ++ rest) = some (w, rest) := by
  have h := leValue_leBytes 4 w.toNat
  have hw := w.isLt
  simp only [leBytes] at h
  simp only [leBytes, List.cons_append, List.nil_append, takeWord, h]
  rw [Nat.mod_eq_of_lt (by omega)]
  simp

end Sys2Proof
end

