-- ==== Sys2Proof/Laws/Memory.lean ====
section
/-! SUPPORT. The memory's laws: a read after a write, and that every memory operation keeps the canonical form. -/

namespace Sys2Proof.Machine

@[simp] theorem Memory.read_nil (a : Nat) : Memory.read [] a = Memory.unlisted := rfl

@[simp] theorem Memory.read_cons (k : Nat) (b : Byte) (rest : Memory) (a : Nat) :
    Memory.read ((k, b) :: rest) a = if k = a then b else Memory.read rest a := rfl

/-- What the form of a cell and of the rest say. -/
theorem Memory.wfFrom_cons {lo k : Nat} {b : Byte} {rest : Memory} :
    Memory.wfFrom lo ((k, b) :: rest) = true ↔
      lo ≤ k ∧ k < 2 ^ 32 ∧ b ≠ Memory.unlisted ∧ Memory.wfFrom (k + 1) rest = true := by
  simp [Memory.wfFrom, and_assoc]

theorem Memory.wfFrom_mono {lo lo' : Nat} {m : Memory} (h : Memory.wfFrom lo m = true) (hl : lo' ≤ lo) :
    Memory.wfFrom lo' m = true := by
  cases m with
  | nil => rfl
  | cons c rest =>
    obtain ⟨k, b⟩ := c
    rw [Memory.wfFrom_cons] at h ⊢
    exact ⟨by omega, h.2⟩

/-- Below its lowest offset a canonical memory lists nothing. -/
theorem Memory.read_below {lo : Nat} {m : Memory} (h : Memory.wfFrom lo m = true) {a : Nat} (ha : a < lo) :
    Memory.read m a = Memory.unlisted := by
  induction m generalizing lo with
  | nil => rfl
  | cons c rest ih =>
    obtain ⟨k, b⟩ := c
    rw [Memory.wfFrom_cons] at h
    rw [Memory.read_cons, if_neg (by omega)]
    exact ih h.2.2.2 (by omega)

theorem Memory.wfFrom_write {lo : Nat} {m : Memory} (h : Memory.wfFrom lo m = true) {a : Nat} (hlo : lo ≤ a)
    (ha : a < 2 ^ 32) (b : Byte) : Memory.wfFrom lo (Memory.write m a b) = true := by
  induction m generalizing lo with
  | nil =>
    unfold Memory.write
    split
    · rfl
    · rw [Memory.wfFrom_cons]; exact ⟨hlo, ha, ‹_›, rfl⟩
  | cons c rest ih =>
    obtain ⟨k, c⟩ := c
    have h0 := h
    rw [Memory.wfFrom_cons] at h
    unfold Memory.write
    split
    · split
      · exact h0
      · rw [Memory.wfFrom_cons, Memory.wfFrom_cons]
        exact ⟨hlo, ha, ‹_›, by omega, h.2⟩
    · split
      · split
        · exact Memory.wfFrom_mono h.2.2.2 (by omega)
        · rw [Memory.wfFrom_cons]; subst a; exact ⟨hlo, ha, ‹_›, h.2.2.2⟩
      · rw [Memory.wfFrom_cons]
        exact ⟨h.1, h.2.1, h.2.2.1, ih h.2.2.2 (by omega)⟩

theorem Memory.wf_write {m : Memory} (h : Memory.wf m = true) {a : Nat} (ha : a < 2 ^ 32) (b : Byte) :
    Memory.wf (Memory.write m a b) = true :=
  Memory.wfFrom_write h (Nat.zero_le a) ha b

theorem Memory.wf_writeBytes {m : Memory} (h : Memory.wf m = true) {a : Nat} {bs : List Byte}
    (ha : a + bs.length ≤ 2 ^ 32) : Memory.wf (Memory.writeBytes m a bs) = true := by
  induction bs generalizing m a with
  | nil => exact h
  | cons b bs ih =>
    simp only [List.length_cons] at ha
    exact ih (Memory.wf_write h (by omega) b) (by omega)

theorem Memory.wfFrom_dropFront {lo n : Nat} {m : Memory} (h : Memory.wfFrom lo m = true) :
    Memory.wfFrom (lo - n) (Memory.dropFront n m) = true := by
  induction m generalizing lo with
  | nil => rfl
  | cons c rest ih =>
    obtain ⟨k, b⟩ := c
    rw [Memory.wfFrom_cons] at h
    unfold Memory.dropFront
    split
    · rw [Memory.wfFrom_cons]
      refine ⟨by omega, by omega, h.2.2.1, ?_⟩
      exact Memory.wfFrom_mono (ih h.2.2.2) (by omega)
    · exact Memory.wfFrom_mono (ih h.2.2.2) (by omega)

theorem Memory.wf_dropFront {m : Memory} (h : Memory.wf m = true) (n : Nat) :
    Memory.wf (Memory.dropFront n m) = true := by
  simpa [Memory.wf] using Memory.wfFrom_dropFront (n := n) h

/-- A read after a write, at the written offset and elsewhere. -/
theorem Memory.read_write_from {lo : Nat} {m : Memory} (h : Memory.wfFrom lo m = true) (a : Nat) (b : Byte) (x : Nat) :
    Memory.read (Memory.write m a b) x = if x = a then b else Memory.read m x := by
  induction m generalizing lo with
  | nil =>
    unfold Memory.write
    by_cases hx : x = a
    · rw [if_pos hx]
      split
      · rw [Memory.read_nil]; exact ‹b = _›.symm
      · rw [Memory.read_cons, if_pos hx.symm]
    · rw [if_neg hx]
      split
      · rfl
      · rw [Memory.read_cons, if_neg (Ne.symm hx)]
  | cons c rest ih =>
    obtain ⟨k, c⟩ := c
    rw [Memory.wfFrom_cons] at h
    have hr : ∀ y, y ≤ k → Memory.read rest y = Memory.unlisted :=
      fun y hy => Memory.read_below h.2.2.2 (by omega)
    unfold Memory.write
    split
    · split
      · by_cases hx : x = a
        · subst hx; rw [if_pos rfl, Memory.read_cons, if_neg (by omega), hr x (by omega)]; simp_all
        · rw [if_neg hx]
      · rw [Memory.read_cons]
        by_cases hx : x = a
        · simp [hx]
        · rw [if_neg (Ne.symm hx), if_neg hx]
    · split
      · subst k
        split
        · by_cases hx : x = a
          · subst hx; rw [if_pos rfl, hr x (by omega)]; simp_all
          · rw [if_neg hx, Memory.read_cons, if_neg (Ne.symm hx)]
        · by_cases hx : x = a
          · simp [hx]
          · simp [hx, Ne.symm hx]
      · rw [Memory.read_cons, Memory.read_cons, ih h.2.2.2]
        by_cases hx : x = a
        · rw [if_pos hx, if_neg (by omega), if_pos hx]
        · rw [if_neg hx, if_neg hx]

theorem Memory.read_write {m : Memory} (h : Memory.wf m = true) (a : Nat) (b : Byte) (x : Nat) :
    Memory.read (Memory.write m a b) x = if x = a then b else Memory.read m x :=
  Memory.read_write_from h a b x

/-- Bytes stored elsewhere leave an offset alone. -/
theorem Memory.read_writeBytes_outside {m : Memory} (h : Memory.wf m = true) {a : Nat} {bs : List Byte}
    (ha : a + bs.length ≤ 2 ^ 32) {x : Nat} (hx : x < a ∨ a + bs.length ≤ x) :
    Memory.read (Memory.writeBytes m a bs) x = Memory.read m x := by
  induction bs generalizing m a with
  | nil => rfl
  | cons b bs ih =>
    simp only [List.length_cons] at ha hx
    rw [Memory.writeBytes, ih (Memory.wf_write h (by omega) b) (by omega) (by omega), Memory.read_write h,
      if_neg (by omega)]

/-- Bytes stored read back. -/
theorem Memory.read_writeBytes {m : Memory} (h : Memory.wf m = true) {a : Nat} {bs : List Byte}
    (ha : a + bs.length ≤ 2 ^ 32) {i : Nat} (hi : i < bs.length) :
    Memory.read (Memory.writeBytes m a bs) (a + i) = bs[i] := by
  induction bs generalizing m a i with
  | nil => simp at hi
  | cons b bs ih =>
    simp only [List.length_cons] at ha hi
    have hw := Memory.wf_write h (a := a) (by omega) b
    cases i with
    | zero =>
      rw [Memory.writeBytes, Memory.read_writeBytes_outside hw (by omega) (by omega), Memory.read_write h]
      simp
    | succ i =>
      have := ih hw (a := a + 1) (i := i) (by omega) (by omega)
      rw [Memory.writeBytes, show a + (i + 1) = a + 1 + i by omega, this]
      simp

theorem Memory.read_dropFront (n : Nat) (m : Memory) (a : Nat) :
    Memory.read (Memory.dropFront n m) a = Memory.read m (n + a) := by
  induction m with
  | nil => rfl
  | cons c rest ih =>
    obtain ⟨k, b⟩ := c
    unfold Memory.dropFront
    split
    · rw [Memory.read_cons, Memory.read_cons, ih]
      by_cases hk : k - n = a
      · rw [if_pos hk, if_pos (by omega)]
      · rw [if_neg hk, if_neg (by omega)]
    · rw [Memory.read_cons, if_neg (by omega), ih]

end Sys2Proof.Machine
end

