-- ==== Sys2Proof/Laws/State.lean ====
section
/-! SUPPORT. One lemma per field per named update of State, so that no proof unfolds a record update. -/

namespace Sys2Proof.Machine

@[simp] theorem State.goto_inBuf (s : State) (p : BitVec 4) : (s.goto p).inBuf = s.inBuf := rfl
@[simp] theorem State.goto_inLen (s : State) (p : BitVec 4) : (s.goto p).inLen = s.inLen := rfl
@[simp] theorem State.goto_start (s : State) (p : BitVec 4) : (s.goto p).start = s.start := rfl
@[simp] theorem State.goto_primReq (s : State) (p : BitVec 4) : (s.goto p).primReq = s.primReq := rfl
@[simp] theorem State.goto_primOut (s : State) (p : BitVec 4) : (s.goto p).primOut = s.primOut := rfl
@[simp] theorem State.goto_res (s : State) (p : BitVec 4) : (s.goto p).res = s.res := rfl
@[simp] theorem State.goto_phase (s : State) (p : BitVec 4) : (s.goto p).phase = p := rfl
@[simp] theorem State.goto_finish (s : State) (p : BitVec 4) : (s.goto p).finish = s.finish := rfl
@[simp] theorem State.goto_tx (s : State) (p : BitVec 4) : (s.goto p).tx = s.tx := rfl
@[simp] theorem State.goto_script (s : State) (p : BitVec 4) : (s.goto p).script = s.script := rfl
@[simp] theorem State.goto_draws (s : State) (p : BitVec 4) : (s.goto p).draws = s.draws := rfl
@[simp] theorem State.goto_readInvalid (s : State) (p : BitVec 4) :
    (s.goto p).readInvalid = s.readInvalid := rfl

@[simp] theorem State.raise_inBuf (s : State) (e : ErrorKind) : (s.raise e).inBuf = s.inBuf := rfl
@[simp] theorem State.raise_inLen (s : State) (e : ErrorKind) : (s.raise e).inLen = s.inLen := rfl
@[simp] theorem State.raise_start (s : State) (e : ErrorKind) : (s.raise e).start = s.start := rfl
@[simp] theorem State.raise_primReq (s : State) (e : ErrorKind) : (s.raise e).primReq = s.primReq := rfl
@[simp] theorem State.raise_primOut (s : State) (e : ErrorKind) : (s.raise e).primOut = s.primOut := rfl
@[simp] theorem State.raise_res (s : State) (e : ErrorKind) : (s.raise e).res = s.res := rfl
@[simp] theorem State.raise_phase (s : State) (e : ErrorKind) : (s.raise e).phase = 9 := rfl
@[simp] theorem State.raise_finish (s : State) (e : ErrorKind) : (s.raise e).finish = s.finish := rfl
@[simp] theorem State.raise_tx (s : State) (e : ErrorKind) : (s.raise e).tx = { s.tx with err := e } := rfl
@[simp] theorem State.raise_script (s : State) (e : ErrorKind) : (s.raise e).script = s.script := rfl
@[simp] theorem State.raise_draws (s : State) (e : ErrorKind) : (s.raise e).draws = s.draws := rfl
@[simp] theorem State.raise_readInvalid (s : State) (e : ErrorKind) :
    (s.raise e).readInvalid = s.readInvalid := rfl

@[simp] theorem State.endTransaction_inBuf (s : State) : (s.endTransaction).inBuf = s.inBuf := rfl
@[simp] theorem State.endTransaction_inLen (s : State) : (s.endTransaction).inLen = s.inLen := rfl
@[simp] theorem State.endTransaction_start (s : State) : (s.endTransaction).start = s.start := rfl
@[simp] theorem State.endTransaction_primReq (s : State) : (s.endTransaction).primReq = s.primReq := rfl
@[simp] theorem State.endTransaction_primOut (s : State) : (s.endTransaction).primOut = s.primOut := rfl
@[simp] theorem State.endTransaction_res (s : State) : (s.endTransaction).res = s.res := rfl
@[simp] theorem State.endTransaction_phase (s : State) : (s.endTransaction).phase = 0 := rfl
@[simp] theorem State.endTransaction_finish (s : State) : (s.endTransaction).finish = .consumed := rfl
@[simp] theorem State.endTransaction_tx (s : State) : (s.endTransaction).tx = Tx.initial := rfl
@[simp] theorem State.endTransaction_script (s : State) : (s.endTransaction).script = s.script := rfl
@[simp] theorem State.endTransaction_draws (s : State) : (s.endTransaction).draws = s.draws + 1 := rfl
@[simp] theorem State.endTransaction_readInvalid (s : State) :
    (s.endTransaction).readInvalid = s.readInvalid := rfl

@[simp] theorem State.writeSuccess_inBuf (s : State) (m : Message) : (s.writeSuccess m).inBuf = s.inBuf := rfl
@[simp] theorem State.writeSuccess_inLen (s : State) (m : Message) : (s.writeSuccess m).inLen = s.inLen := rfl
@[simp] theorem State.writeSuccess_start (s : State) (m : Message) : (s.writeSuccess m).start = s.start := rfl
@[simp] theorem State.writeSuccess_primReq (s : State) (m : Message) : (s.writeSuccess m).primReq = s.primReq := rfl
@[simp] theorem State.writeSuccess_primOut (s : State) (m : Message) : (s.writeSuccess m).primOut = s.primOut := rfl
@[simp] theorem State.writeSuccess_res (s : State) (m : Message) : (s.writeSuccess m).res = .success m s.draws := rfl
@[simp] theorem State.writeSuccess_phase (s : State) (m : Message) : (s.writeSuccess m).phase = 0 := rfl
@[simp] theorem State.writeSuccess_finish (s : State) (m : Message) : (s.writeSuccess m).finish = .consumed := rfl
@[simp] theorem State.writeSuccess_tx (s : State) (m : Message) : (s.writeSuccess m).tx = Tx.initial := rfl
@[simp] theorem State.writeSuccess_script (s : State) (m : Message) : (s.writeSuccess m).script = s.script := rfl
@[simp] theorem State.writeSuccess_draws (s : State) (m : Message) : (s.writeSuccess m).draws = s.draws + 1 := rfl
@[simp] theorem State.writeSuccess_readInvalid (s : State) (m : Message) :
    (s.writeSuccess m).readInvalid = s.readInvalid := rfl

@[simp] theorem State.writeError_inBuf (s : State) (e : ErrorKind) : (s.writeError e).inBuf = s.inBuf := rfl
@[simp] theorem State.writeError_inLen (s : State) (e : ErrorKind) : (s.writeError e).inLen = s.inLen := rfl
@[simp] theorem State.writeError_start (s : State) (e : ErrorKind) : (s.writeError e).start = s.start := rfl
@[simp] theorem State.writeError_primReq (s : State) (e : ErrorKind) : (s.writeError e).primReq = s.primReq := rfl
@[simp] theorem State.writeError_primOut (s : State) (e : ErrorKind) : (s.writeError e).primOut = s.primOut := rfl
@[simp] theorem State.writeError_res (s : State) (e : ErrorKind) : (s.writeError e).res = .error e s.draws := rfl
@[simp] theorem State.writeError_phase (s : State) (e : ErrorKind) : (s.writeError e).phase = 0 := rfl
@[simp] theorem State.writeError_finish (s : State) (e : ErrorKind) : (s.writeError e).finish = .consumed := rfl
@[simp] theorem State.writeError_tx (s : State) (e : ErrorKind) : (s.writeError e).tx = Tx.initial := rfl
@[simp] theorem State.writeError_script (s : State) (e : ErrorKind) : (s.writeError e).script = s.script := rfl
@[simp] theorem State.writeError_draws (s : State) (e : ErrorKind) : (s.writeError e).draws = s.draws + 1 := rfl
@[simp] theorem State.writeError_readInvalid (s : State) (e : ErrorKind) :
    (s.writeError e).readInvalid = s.readInvalid := rfl

@[simp] theorem State.clearStart_inBuf (s : State) : (s.clearStart).inBuf = s.inBuf := rfl
@[simp] theorem State.clearStart_inLen (s : State) : (s.clearStart).inLen = s.inLen := rfl
@[simp] theorem State.clearStart_start (s : State) : (s.clearStart).start = false := rfl
@[simp] theorem State.clearStart_primReq (s : State) : (s.clearStart).primReq = s.primReq := rfl
@[simp] theorem State.clearStart_primOut (s : State) : (s.clearStart).primOut = s.primOut := rfl
@[simp] theorem State.clearStart_res (s : State) : (s.clearStart).res = s.res := rfl
@[simp] theorem State.clearStart_phase (s : State) : (s.clearStart).phase = s.phase := rfl
@[simp] theorem State.clearStart_finish (s : State) : (s.clearStart).finish = s.finish := rfl
@[simp] theorem State.clearStart_tx (s : State) : (s.clearStart).tx = s.tx := rfl
@[simp] theorem State.clearStart_script (s : State) : (s.clearStart).script = s.script := rfl
@[simp] theorem State.clearStart_draws (s : State) : (s.clearStart).draws = s.draws := rfl
@[simp] theorem State.clearStart_readInvalid (s : State) :
    (s.clearStart).readInvalid = s.readInvalid := rfl

@[simp] theorem State.returnPrim_inBuf (s : State) (v : Int) : (s.returnPrim v).inBuf = s.inBuf := rfl
@[simp] theorem State.returnPrim_inLen (s : State) (v : Int) : (s.returnPrim v).inLen = s.inLen := rfl
@[simp] theorem State.returnPrim_start (s : State) (v : Int) : (s.returnPrim v).start = s.start := rfl
@[simp] theorem State.returnPrim_primReq (s : State) (v : Int) : (s.returnPrim v).primReq = none := rfl
@[simp] theorem State.returnPrim_primOut (s : State) (v : Int) : (s.returnPrim v).primOut = v := rfl
@[simp] theorem State.returnPrim_res (s : State) (v : Int) : (s.returnPrim v).res = s.res := rfl
@[simp] theorem State.returnPrim_phase (s : State) (v : Int) : (s.returnPrim v).phase = s.phase := rfl
@[simp] theorem State.returnPrim_finish (s : State) (v : Int) : (s.returnPrim v).finish = s.finish := rfl
@[simp] theorem State.returnPrim_tx (s : State) (v : Int) : (s.returnPrim v).tx = s.tx := rfl
@[simp] theorem State.returnPrim_script (s : State) (v : Int) : (s.returnPrim v).script = s.script := rfl
@[simp] theorem State.returnPrim_draws (s : State) (v : Int) : (s.returnPrim v).draws = s.draws := rfl
@[simp] theorem State.returnPrim_readInvalid (s : State) (v : Int) :
    (s.returnPrim v).readInvalid = s.readInvalid := rfl

@[simp] theorem State.takeHeader_inBuf (s : State) (h : Header) : (s.takeHeader h).inBuf = s.inBuf := rfl
@[simp] theorem State.takeHeader_inLen (s : State) (h : Header) : (s.takeHeader h).inLen = s.inLen := rfl
@[simp] theorem State.takeHeader_start (s : State) (h : Header) : (s.takeHeader h).start = s.start := rfl
@[simp] theorem State.takeHeader_primReq (s : State) (h : Header) : (s.takeHeader h).primReq = s.primReq := rfl
@[simp] theorem State.takeHeader_primOut (s : State) (h : Header) : (s.takeHeader h).primOut = s.primOut := rfl
@[simp] theorem State.takeHeader_res (s : State) (h : Header) : (s.takeHeader h).res = s.res := rfl
@[simp] theorem State.takeHeader_phase (s : State) (h : Header) : (s.takeHeader h).phase = 3 := rfl
@[simp] theorem State.takeHeader_finish (s : State) (h : Header) : (s.takeHeader h).finish = s.finish := rfl
@[simp] theorem State.takeHeader_tx (s : State) (h : Header) : (s.takeHeader h).tx = { s.tx with header := h } := rfl
@[simp] theorem State.takeHeader_script (s : State) (h : Header) : (s.takeHeader h).script = s.script := rfl
@[simp] theorem State.takeHeader_draws (s : State) (h : Header) : (s.takeHeader h).draws = s.draws := rfl
@[simp] theorem State.takeHeader_readInvalid (s : State) (h : Header) :
    (s.takeHeader h).readInvalid = s.readInvalid := rfl

@[simp] theorem State.takePrefix_inBuf (s : State) (p : Byte) : (s.takePrefix p).inBuf = s.inBuf := rfl
@[simp] theorem State.takePrefix_inLen (s : State) (p : Byte) : (s.takePrefix p).inLen = s.inLen := rfl
@[simp] theorem State.takePrefix_start (s : State) (p : Byte) : (s.takePrefix p).start = s.start := rfl
@[simp] theorem State.takePrefix_primReq (s : State) (p : Byte) : (s.takePrefix p).primReq = s.primReq := rfl
@[simp] theorem State.takePrefix_primOut (s : State) (p : Byte) : (s.takePrefix p).primOut = s.primOut := rfl
@[simp] theorem State.takePrefix_res (s : State) (p : Byte) : (s.takePrefix p).res = s.res := rfl
@[simp] theorem State.takePrefix_phase (s : State) (p : Byte) : (s.takePrefix p).phase = 7 := rfl
@[simp] theorem State.takePrefix_finish (s : State) (p : Byte) : (s.takePrefix p).finish = s.finish := rfl
@[simp] theorem State.takePrefix_tx (s : State) (p : Byte) : (s.takePrefix p).tx = { s.tx with pfx := p } := rfl
@[simp] theorem State.takePrefix_script (s : State) (p : Byte) : (s.takePrefix p).script = s.script := rfl
@[simp] theorem State.takePrefix_draws (s : State) (p : Byte) : (s.takePrefix p).draws = s.draws := rfl
@[simp] theorem State.takePrefix_readInvalid (s : State) (p : Byte) :
    (s.takePrefix p).readInvalid = s.readInvalid := rfl

@[simp] theorem State.takeBody_inBuf (s : State) (b : List Byte) : (s.takeBody b).inBuf = s.inBuf := rfl
@[simp] theorem State.takeBody_inLen (s : State) (b : List Byte) : (s.takeBody b).inLen = s.inLen := rfl
@[simp] theorem State.takeBody_start (s : State) (b : List Byte) : (s.takeBody b).start = s.start := rfl
@[simp] theorem State.takeBody_primReq (s : State) (b : List Byte) : (s.takeBody b).primReq = s.primReq := rfl
@[simp] theorem State.takeBody_primOut (s : State) (b : List Byte) : (s.takeBody b).primOut = s.primOut := rfl
@[simp] theorem State.takeBody_res (s : State) (b : List Byte) : (s.takeBody b).res = s.res := rfl
@[simp] theorem State.takeBody_phase (s : State) (b : List Byte) : (s.takeBody b).phase = 8 := rfl
@[simp] theorem State.takeBody_finish (s : State) (b : List Byte) : (s.takeBody b).finish = .consumed := rfl
@[simp] theorem State.takeBody_tx (s : State) (b : List Byte) : (s.takeBody b).tx = { s.tx with body := b } := rfl
@[simp] theorem State.takeBody_script (s : State) (b : List Byte) : (s.takeBody b).script = s.script := rfl
@[simp] theorem State.takeBody_draws (s : State) (b : List Byte) : (s.takeBody b).draws = s.draws := rfl
@[simp] theorem State.takeBody_readInvalid (s : State) (b : List Byte) :
    (s.takeBody b).readInvalid = s.readInvalid := rfl

@[simp] theorem State.takeClass_inBuf (s : State) (c : BitVec 2) : (s.takeClass c).inBuf = s.inBuf := rfl
@[simp] theorem State.takeClass_inLen (s : State) (c : BitVec 2) : (s.takeClass c).inLen = s.inLen := rfl
@[simp] theorem State.takeClass_start (s : State) (c : BitVec 2) : (s.takeClass c).start = s.start := rfl
@[simp] theorem State.takeClass_primReq (s : State) (c : BitVec 2) : (s.takeClass c).primReq = s.primReq := rfl
@[simp] theorem State.takeClass_primOut (s : State) (c : BitVec 2) : (s.takeClass c).primOut = s.primOut := rfl
@[simp] theorem State.takeClass_res (s : State) (c : BitVec 2) : (s.takeClass c).res = s.res := rfl
@[simp] theorem State.takeClass_phase (s : State) (c : BitVec 2) : (s.takeClass c).phase = s.phase := rfl
@[simp] theorem State.takeClass_finish (s : State) (c : BitVec 2) : (s.takeClass c).finish = .write := rfl
@[simp] theorem State.takeClass_tx (s : State) (c : BitVec 2) : (s.takeClass c).tx = { s.tx with cls := c } := rfl
@[simp] theorem State.takeClass_script (s : State) (c : BitVec 2) : (s.takeClass c).script = s.script := rfl
@[simp] theorem State.takeClass_draws (s : State) (c : BitVec 2) : (s.takeClass c).draws = s.draws := rfl
@[simp] theorem State.takeClass_readInvalid (s : State) (c : BitVec 2) :
    (s.takeClass c).readInvalid = s.readInvalid := rfl

@[simp] theorem State.enter_inBuf (s : State) : (s.enter).inBuf = s.inBuf := rfl
@[simp] theorem State.enter_inLen (s : State) : (s.enter).inLen = s.inLen := rfl
@[simp] theorem State.enter_start (s : State) : (s.enter).start = false := rfl
@[simp] theorem State.enter_primReq (s : State) : (s.enter).primReq = s.primReq := rfl
@[simp] theorem State.enter_primOut (s : State) : (s.enter).primOut = s.primOut := rfl
@[simp] theorem State.enter_res (s : State) : (s.enter).res = s.res := rfl
@[simp] theorem State.enter_phase (s : State) : (s.enter).phase = 1 := rfl
@[simp] theorem State.enter_finish (s : State) : (s.enter).finish = s.finish := rfl
@[simp] theorem State.enter_tx (s : State) : (s.enter).tx = s.tx := rfl
@[simp] theorem State.enter_script (s : State) : (s.enter).script = s.script := rfl
@[simp] theorem State.enter_draws (s : State) : (s.enter).draws = s.draws := rfl
@[simp] theorem State.enter_readInvalid (s : State) :
    (s.enter).readInvalid = s.readInvalid := rfl

@[simp] theorem State.recordReadInvalid_inBuf (s : State) : (s.recordReadInvalid).inBuf = s.inBuf := rfl
@[simp] theorem State.recordReadInvalid_inLen (s : State) : (s.recordReadInvalid).inLen = s.inLen := rfl
@[simp] theorem State.recordReadInvalid_start (s : State) : (s.recordReadInvalid).start = s.start := rfl
@[simp] theorem State.recordReadInvalid_primReq (s : State) : (s.recordReadInvalid).primReq = s.primReq := rfl
@[simp] theorem State.recordReadInvalid_primOut (s : State) : (s.recordReadInvalid).primOut = s.primOut := rfl
@[simp] theorem State.recordReadInvalid_res (s : State) : (s.recordReadInvalid).res = s.res := rfl
@[simp] theorem State.recordReadInvalid_phase (s : State) : (s.recordReadInvalid).phase = s.phase := rfl
@[simp] theorem State.recordReadInvalid_finish (s : State) : (s.recordReadInvalid).finish = s.finish := rfl
@[simp] theorem State.recordReadInvalid_tx (s : State) : (s.recordReadInvalid).tx = s.tx := rfl
@[simp] theorem State.recordReadInvalid_script (s : State) : (s.recordReadInvalid).script = s.script := rfl
@[simp] theorem State.recordReadInvalid_draws (s : State) : (s.recordReadInvalid).draws = s.draws := rfl
@[simp] theorem State.recordReadInvalid_readInvalid (s : State) : (s.recordReadInvalid).readInvalid = true := rfl

@[simp] theorem State.dropWindow_inBuf (s : State) (n : Word) : (s.dropWindow n).inBuf = Memory.dropFront n.toNat s.inBuf := rfl
@[simp] theorem State.dropWindow_inLen (s : State) (n : Word) : (s.dropWindow n).inLen = s.inLen - n := rfl
@[simp] theorem State.dropWindow_start (s : State) (n : Word) : (s.dropWindow n).start = s.start := rfl
@[simp] theorem State.dropWindow_primReq (s : State) (n : Word) : (s.dropWindow n).primReq = s.primReq := rfl
@[simp] theorem State.dropWindow_primOut (s : State) (n : Word) : (s.dropWindow n).primOut = s.primOut := rfl
@[simp] theorem State.dropWindow_res (s : State) (n : Word) : (s.dropWindow n).res = s.res := rfl
@[simp] theorem State.dropWindow_phase (s : State) (n : Word) : (s.dropWindow n).phase = s.phase := rfl
@[simp] theorem State.dropWindow_finish (s : State) (n : Word) : (s.dropWindow n).finish = s.finish := rfl
@[simp] theorem State.dropWindow_tx (s : State) (n : Word) : (s.dropWindow n).tx = s.tx := rfl
@[simp] theorem State.dropWindow_script (s : State) (n : Word) : (s.dropWindow n).script = s.script := rfl
@[simp] theorem State.dropWindow_draws (s : State) (n : Word) : (s.dropWindow n).draws = s.draws := rfl
@[simp] theorem State.dropWindow_readInvalid (s : State) (n : Word) : (s.dropWindow n).readInvalid = s.readInvalid := rfl

@[simp] theorem State.dropPastWindow_inBuf (s : State) (n : Word) :
    (s.dropPastWindow n).inBuf = Memory.dropFront n.toNat s.inBuf := rfl
@[simp] theorem State.dropPastWindow_inLen (s : State) (n : Word) :
    (s.dropPastWindow n).inLen = Config.freeValue s.draws 12 := rfl
@[simp] theorem State.dropPastWindow_start (s : State) (n : Word) :
    (s.dropPastWindow n).start = s.start := rfl
@[simp] theorem State.dropPastWindow_primReq (s : State) (n : Word) :
    (s.dropPastWindow n).primReq = s.primReq := rfl
@[simp] theorem State.dropPastWindow_primOut (s : State) (n : Word) :
    (s.dropPastWindow n).primOut = s.primOut := rfl
@[simp] theorem State.dropPastWindow_res (s : State) (n : Word) :
    (s.dropPastWindow n).res = s.res := rfl
@[simp] theorem State.dropPastWindow_phase (s : State) (n : Word) :
    (s.dropPastWindow n).phase = s.phase := rfl
@[simp] theorem State.dropPastWindow_finish (s : State) (n : Word) :
    (s.dropPastWindow n).finish = s.finish := rfl
@[simp] theorem State.dropPastWindow_tx (s : State) (n : Word) :
    (s.dropPastWindow n).tx = s.tx := rfl
@[simp] theorem State.dropPastWindow_script (s : State) (n : Word) :
    (s.dropPastWindow n).script = s.script := rfl
@[simp] theorem State.dropPastWindow_draws (s : State) (n : Word) :
    (s.dropPastWindow n).draws = s.draws + 1 := rfl
@[simp] theorem State.dropPastWindow_readInvalid (s : State) (n : Word) :
    (s.dropPastWindow n).readInvalid = s.readInvalid := rfl

end Sys2Proof.Machine
end

