-- ==== Sys2Proof/Laws/Operands.lean ====
section
/-! SUPPORT. The window reads: when they succeed, what they give, and that they look at nothing but the bytes they
read (spec/20_memory.md R51 to R54). -/

namespace Sys2Proof.Machine

/-- The bytes at offsets a .. a+n-1, wherever the window ends. -/
def State.rawBytes (s : State) (a n : Nat) : List Byte := (List.range n).map fun i => Memory.read s.inBuf (a + i)

@[simp] theorem State.rawBytes_length (s : State) (a n : Nat) : (s.rawBytes a n).length = n := by
  simp [State.rawBytes]

theorem State.rawBytes_succ (s : State) (a n : Nat) :
    s.rawBytes a (n + 1) = Memory.read s.inBuf a :: s.rawBytes (a + 1) n := by
  simp only [State.rawBytes, List.range_succ_eq_map, List.map_cons, List.map_map, Nat.add_zero]
  congr 1
  exact List.map_congr_left fun i _ => by simp [Nat.add_assoc, Nat.add_comm 1 i]

/-- A read of n bytes gives them where they are in the window, and nothing where they are not (R51). -/
theorem State.readBytes_eq (s : State) (a n : Nat) :
    s.readBytes a n = if n = 0 ∨ a + n ≤ s.inLen.toNat then some (s.rawBytes a n) else none := by
  induction n generalizing a with
  | zero => simp [State.readBytes, State.rawBytes]
  | succ n ih =>
    rw [State.readBytes, State.byteAt, ih, State.rawBytes_succ]
    by_cases ha : a < s.inLen.toNat
    · by_cases hn : n = 0
      · subst hn; simp [ha, Nat.succ_le_of_lt ha]
      · by_cases hl : a + 1 + n ≤ s.inLen.toNat
        · simp [ha, hn, hl, show a + (n + 1) ≤ s.inLen.toNat by omega]
        · simp [ha, hn, hl, show ¬ a + (n + 1) ≤ s.inLen.toNat by omega]
    · simp [ha, show ¬ a + (n + 1) ≤ s.inLen.toNat by omega]

theorem State.readBytes_inside {s : State} {a n : Nat} (h : a + n ≤ s.inLen.toNat) :
    s.readBytes a n = some (s.rawBytes a n) := by
  rw [State.readBytes_eq, if_pos (Or.inr h)]

theorem State.leValue_rawBytes (s : State) (a n : Nat) : leValue (s.rawBytes a n) = s.windowValue a n := by
  induction n generalizing a with
  | zero => rfl
  | succ n ih =>
    rw [State.rawBytes_succ, leValue, ih, State.windowValue, State.windowValue, List.range_succ_eq_map]
    simp only [List.map_cons, List.map_map, List.sum_cons, Nat.mul_zero, Nat.pow_zero, Nat.mul_one, Nat.add_zero]
    congr 1
    rw [← List.sum_map_mul_left]
    congr 1
    refine List.map_congr_left fun i _ => ?_
    rw [Function.comp, show a + 1 + i = a + (i + 1) by omega, show 8 * (i + 1) = 8 * i + 8 by omega, Nat.pow_add]
    ring

theorem State.windowValue_lt (s : State) (a n : Nat) : s.windowValue a n < 256 ^ n := by
  simpa [State.leValue_rawBytes] using leValue_lt (s.rawBytes a n)

/-- `MemRead(a, n)` (R54). -/
theorem State.memRead_eq (s : State) (a n : Nat) :
    s.memRead a n = if n = 0 ∨ a + n ≤ s.inLen.toNat then some (s.windowValue a n) else none := by
  rw [State.memRead, State.readBytes_eq]
  split <;> simp [State.leValue_rawBytes]

theorem State.memRead_inside {s : State} {a n : Nat} (h : a + n ≤ s.inLen.toNat) :
    s.memRead a n = some (s.windowValue a n) := by
  rw [State.memRead_eq, if_pos (Or.inr h)]

/-- The header at the front of the window, wherever the window ends. -/
def State.rawHeader (s : State) : Header where
  magic := BitVec.ofNat 32 (s.windowValue 0 4)
  logID := BitVec.ofNat 32 (s.windowValue 4 4)
  sequence := BitVec.ofNat 32 (s.windowValue 8 4)
  serviceID := BitVec.ofNat 32 (s.windowValue 12 4)
  command := BitVec.ofNat 32 (s.windowValue 16 4)
  code := BitVec.ofNat 32 (s.windowValue 20 4)
  bodyLength := BitVec.ofNat 16 (s.windowValue 24 2)
  rsvd16 := BitVec.ofNat 16 (s.windowValue 26 2)
  rsvd32 := BitVec.ofNat 32 (s.windowValue 28 4)

/-- DESER_HEADER cannot fail once the header is in the window (R125). -/
theorem State.deserHeader_inside {s : State} (h : 32 ≤ s.inLen.toNat) : s.deserHeader = some s.rawHeader := by
  have m : ∀ a n, a + n ≤ 32 → s.memRead a n = some (s.windowValue a n) :=
    fun a n ha => State.memRead_inside (by omega)
  simp [State.deserHeader, State.leU32, State.leU16, State.leS32, m, State.rawHeader, BitVec.ofInt_toInt]

/-- The prefix byte, where it is in the window (R170). -/
theorem State.leU8_inside {s : State} {a : Nat} (h : a + 1 ≤ s.inLen.toNat) :
    s.leU8 a = some (Memory.read s.inBuf a) := by
  rw [State.leU8, State.memRead_inside h]
  simp [State.windowValue]

/-- Windows that agree on some bytes hold the same values there. -/
theorem State.windowValue_congr {n a k : Nat} {s t : State} (h : State.agreeBelow n s t) (hk : a + k ≤ n) :
    s.windowValue a k = t.windowValue a k := by
  simp only [State.windowValue]
  congr 1
  refine List.map_congr_left fun i hi => ?_
  rw [h (a + i) (by have := List.mem_range.1 hi; omega)]

theorem State.rawBytes_congr {n a k : Nat} {s t : State} (h : State.agreeBelow n s t) (hk : a + k ≤ n) :
    s.rawBytes a k = t.rawBytes a k := by
  simp only [State.rawBytes]
  refine List.map_congr_left fun i hi => ?_
  rw [h (a + i) (by have := List.mem_range.1 hi; omega)]

theorem State.rawHeader_congr {n : Nat} {s t : State} (h : State.agreeBelow n s t) (hn : 32 ≤ n) :
    s.rawHeader = t.rawHeader := by
  simp only [State.rawHeader, State.windowValue_congr h (show 0 + 4 ≤ n by omega),
    State.windowValue_congr h (show 4 + 4 ≤ n by omega), State.windowValue_congr h (show 8 + 4 ≤ n by omega),
    State.windowValue_congr h (show 12 + 4 ≤ n by omega), State.windowValue_congr h (show 16 + 4 ≤ n by omega),
    State.windowValue_congr h (show 20 + 4 ≤ n by omega), State.windowValue_congr h (show 24 + 2 ≤ n by omega),
    State.windowValue_congr h (show 26 + 2 ≤ n by omega), State.windowValue_congr h (show 28 + 4 ≤ n by omega)]

end Sys2Proof.Machine
end

