-- ==== Sys2Proof/Laws/Transaction.lean ====
section
/-! SUPPORT. What the gates test, what DECODE's verdict is, and what a HOST reads after the two result writes. -/

namespace Sys2Proof.Machine

@[simp] theorem config_hdrLen : config.hdrLen = 32 := (rfl)
@[simp] theorem config_magic : config.magic = 0x20160905#32 := (rfl)
@[simp] theorem config_maxBody : config.maxBody = 254 := (rfl)
@[simp] theorem config_cmdHeartbeat : config.cmdHeartbeat = 0#32 := (rfl)
@[simp] theorem config_cmdEcho : config.cmdEcho = 1#32 := (rfl)
@[simp] theorem config_bl0Wraps : config.bl0Wraps = true := (rfl)
@[simp] theorem config_prefixFail : config.prefixFail = .insufficientData := (rfl)

theorem headerShort_iff (s : State) : headerShort config s = true ↔ s.inLen.toNat < 32 := by
  simp [headerShort]

theorem magicOk_iff (h : Header) : magicOk config h = true ↔ h.magic.toNat = 0x20160905 := by
  simp only [magicOk, config_magic, beq_iff_eq, ← BitVec.toNat_inj]
  rfl

theorem bodyShort_iff (s : State) (h : Header) :
    bodyShort config s h = true ↔ s.inLen.toNat < 32 + h.bodyLength.toNat := by
  simp [bodyShort]

/-- SIZE_CHECK's wrap-around subtraction, in plain numbers (R153). -/
theorem oversized_iff (h : Header) :
    oversized config h = true ↔ h.bodyLength.toNat = 0 ∨ 256 ≤ h.bodyLength.toNat := by
  simp only [oversized, config_bl0Wraps, config_maxBody, if_true, decide_eq_true_eq]
  have := h.bodyLength.isLt
  rw [BitVec.toNat_sub, show (1 : Half).toNat = 1 from rfl]
  omega

theorem prefixMissing_iff (s : State) : prefixMissing config s = true ↔ s.inLen.toNat < 33 := by
  simp [prefixMissing]

theorem bodyPastWindow_iff (s : State) (p : Byte) :
    bodyPastWindow config s p = true ↔ s.inLen.toNat < 33 + p.toNat := by
  simp [bodyPastWindow]

theorem consumedLength_toNat (p : Byte) : (consumedLength config p).toNat = 33 + p.toNat := by
  have := p.isLt
  simp only [consumedLength, config_hdrLen, BitVec.toNat_ofNat]
  omega

theorem rawHeader_magic (s : State) : s.rawHeader.magic.toNat = s.windowValue 0 4 := by
  have := s.windowValue_lt 0 4
  simp only [State.rawHeader, BitVec.toNat_ofNat]
  omega

theorem rawHeader_bodyLength (s : State) : s.rawHeader.bodyLength.toNat = s.windowValue 24 2 := by
  have := s.windowValue_lt 24 2
  simp only [State.rawHeader, BitVec.toNat_ofNat]
  omega

theorem windowValue_one (s : State) (a : Nat) : s.windowValue a 1 = (Memory.read s.inBuf a).toNat := by
  simp [State.windowValue]

/-- DECODE's verdict as the window's numbers give it, gate by gate (R100, R101): no case reads outside the window. -/
theorem decodeVerdict_eq (s : State) :
    decodeVerdict config s =
      if s.inLen.toNat < 32 then .raise .insufficientData
      else if s.windowValue 0 4 ≠ 0x20160905 then .raise .illegalMagic
      else if s.inLen.toNat < 32 + s.windowValue 24 2 then .raise .insufficientData
      else if s.windowValue 24 2 = 0 ∨ 256 ≤ s.windowValue 24 2 then .raise .oversizedPackage
      else if s.inLen.toNat < 33 + s.windowValue 32 1 then .raise .insufficientData
      else .accept (assemble config s.rawHeader (Memory.read s.inBuf 32) (s.rawBytes 33 (s.windowValue 32 1))) := by
  unfold decodeVerdict
  by_cases h1 : s.inLen.toNat < 32
  · rw [if_pos ((headerShort_iff s).2 h1), if_pos h1]
  rw [if_neg (by rwa [headerShort_iff]), if_neg h1, State.deserHeader_inside (by omega)]
  by_cases h2 : s.windowValue 0 4 = 0x20160905
  swap
  · have : magicOk config s.rawHeader = false := by rw [← Bool.not_eq_true, magicOk_iff, rawHeader_magic]; exact h2
    simp only [this, h2, Bool.not_false, if_true, ne_eq, not_false_eq_true]
  have m : magicOk config s.rawHeader = true := by rw [magicOk_iff, rawHeader_magic]; exact h2
  rw [if_neg (not_not.2 h2)]
  simp only [m, Bool.not_true, Bool.false_eq_true, if_false, bodyShort_iff, oversized_iff, rawHeader_bodyLength]
  by_cases h3 : s.inLen.toNat < 32 + s.windowValue 24 2
  · rw [if_pos h3, if_pos h3]
  rw [if_neg h3, if_neg h3]
  by_cases h4 : s.windowValue 24 2 = 0 ∨ 256 ≤ s.windowValue 24 2
  · rw [if_pos h4, if_pos h4]
  rw [if_neg h4, if_neg h4, prefixVerdict, if_neg (by rw [prefixMissing_iff]; omega), config_hdrLen,
    State.leU8_inside (by omega), windowValue_one]
  simp only [bodyVerdict, bodyPastWindow_iff, config_hdrLen]
  by_cases h5 : s.inLen.toNat < 33 + (Memory.read s.inBuf 32).toNat
  · rw [if_pos h5, if_pos h5]
  · rw [if_neg h5, if_neg h5, State.readBytes_inside (by omega)]

/-- DECODE never reads outside the window (R53). -/
theorem decodeVerdict_ne_outOfWindow (s : State) : decodeVerdict config s ≠ .outOfWindow := by
  rw [decodeVerdict_eq]
  repeat' split
  all_goals simp

@[simp] theorem freeBody_length (d : Nat) : (freeBody d).length = 255 := by simp [freeBody, bodyCap]

theorem bodyRegisters_length (body : List Byte) (d : Nat) : (bodyRegisters body d).length = 255 := by
  simp only [bodyRegisters, List.length_append, List.length_take, List.length_drop, freeBody_length, bodyCap]
  omega

theorem bodyRegisters_getElem? {body : List Byte} (hb : body.length ≤ 255) (d : Nat) {i : Nat} (hi : i < body.length) :
    (bodyRegisters body d)[i]? = some body[i] := by
  rw [bodyRegisters, List.take_of_length_le (by simpa [bodyCap] using hb), List.getElem?_append_left hi,
    List.getElem?_eq_getElem hi]

/-- After the error write the HOST sees the status and nothing of a message (R103). -/
theorem showsError (e : ErrorKind) (d : Nat) : ShowsError (.error e d) e.status.toNat := by
  refine ⟨rfl, rfl, rfl, rfl, fun x hx => ?_⟩
  cases x <;> first | rfl | exact absurd hx id

/-- After the success write the HOST sees the message (R102). -/
theorem showsMessage (m : Message) (d : Nat) (hb : m.body.length = m.pfx.toNat) :
    ShowsMessage (.success m d) m.header m.pfx m.body m.consumed m.cls := by
  have hp := m.pfx.isLt
  refine ⟨⟨rfl, rfl, rfl, rfl⟩, ⟨rfl, rfl, rfl, rfl, rfl, rfl, rfl, rfl, rfl⟩, rfl, fun i hi => ?_, fun i hi => ?_, rfl⟩
  · have : i < (Results.success m d).bPrefix.toNat := by change i < m.pfx.toNat; omega
    rw [readReg, decide_eq_true this]
    change ((bodyRegisters m.body d)[i]?).map _ = _
    rw [bodyRegisters_getElem? (by omega) d hi]
    rfl
  · have : ¬ i < (Results.success m d).bPrefix.toNat := by change ¬ i < m.pfx.toNat; omega
    rw [readReg, decide_eq_false this, Bool.and_false]
    rfl

end Sys2Proof.Machine
end

