-- ==== Sys2Proof/Laws/Operations.lean ====
section
/-! SUPPORT. Everything an operation can do: exec's inversion lemma, and the named updates' effect on what frames
speak of. -/

namespace Sys2Proof.Machine

/-- CONSUMED_CALC's update. -/
def State.takeConsumed (c : Word) (s : State) : State :=
  { s with tx := { s.tx with consumed := c }, finish := .classify }

/-- The updates that leave the result registers alone. -/
inductive LocalUpdate (s : State) : State → Prop where
  | returnPrim (v : Int) : LocalUpdate s (s.returnPrim v)
  | goto (p : BitVec 4) : LocalUpdate s (s.goto p)
  | raise (e : ErrorKind) : LocalUpdate s (s.raise e)
  | takeHeader (h : Header) : LocalUpdate s (s.takeHeader h)
  | takePrefix (p : Byte) : LocalUpdate s (s.takePrefix p)
  | takeBody (b : List Byte) : LocalUpdate s (s.takeBody b)
  | takeConsumed (c : Word) : LocalUpdate s (s.takeConsumed c)
  | takeClass (c : BitVec 2) : LocalUpdate s (s.takeClass c)

/-- The updates that write the result registers: a success or an error write, START cleared before it or not. -/
inductive ResultUpdate (s : State) : State → Prop where
  | success (m : Message) : ResultUpdate s (s.writeSuccess m)
  | error (e : ErrorKind) : ResultUpdate s (s.writeError e)
  | decodeSuccess (m : Message) : ResultUpdate s (s.clearStart.writeSuccess m)
  | decodeError (e : ErrorKind) : ResultUpdate s (s.clearStart.writeError e)

theorem primResult_next {v : Option Int} {s t : State} (h : primResult v s = .next t) : LocalUpdate s t := by
  cases v with
  | none => cases h
  | some v => cases h; exact .returnPrim v

theorem gate_next {b : Bool} {e : ErrorKind} {p : BitVec 4} {s t : State} (h : gate b e p s = .next t) :
    LocalUpdate s t := by
  cases b <;> cases h
  · exact .goto p
  · exact .raise e

/-- DECODE is one of its two result writes, and nothing else (R100, R53). -/
theorem execDecode_cases (s : State) :
    (∃ m, decodeVerdict config s = .accept m ∧ exec .decode s = .next (s.clearStart.writeSuccess m)) ∨
    (∃ e, decodeVerdict config s = .raise e ∧ exec .decode s = .next (s.clearStart.writeError e)) := by
  cases h : decodeVerdict config s with
  | accept m => exact .inl ⟨m, rfl, by simp only [exec, execDecode, h, writeVerdict]⟩
  | raise e => exact .inr ⟨e, rfl, by simp only [exec, execDecode, h, writeVerdict]⟩
  | outOfWindow => exact absurd h (decodeVerdict_ne_outOfWindow s)

/-- What an operation that goes on has done: a local update, or for DECODE and the two writes a result update. -/
theorem exec_next {i : Instr} {s t : State} (h : exec i s = .next t) :
    LocalUpdate s t ∨ ((i = .decode ∨ i = .successWrite ∨ i = .errorWrite) ∧ ResultUpdate s t) := by
  cases i with
  | decode =>
    refine .inr ⟨.inl rfl, ?_⟩
    obtain ⟨m, -, hm⟩ | ⟨e, -, he⟩ := execDecode_cases s
    · rw [hm] at h; cases h; exact .decodeSuccess m
    · rw [he] at h; cases h; exact .decodeError e
  | hdrAvailCheck => exact .inl (gate_next h)
  | bodyAvailCheck => exact .inl (gate_next h)
  | sizeCheck => exact .inl (gate_next h)
  | deserHeader =>
    simp only [exec, execDeserHeader] at h
    split at h <;> cases h
    exact .inl (.takeHeader _)
  | magicCheck =>
    simp only [exec, execMagicCheck] at h
    split at h <;> cases h
    · exact .inl (.goto _)
    · exact .inl (.raise _)
  | prefixRead =>
    simp only [exec, execPrefixRead, prefixRead, prefixFailure, config_prefixFail] at h
    split at h
    · cases h; exact .inl (.raise _)
    · split at h <;> cases h
      exact .inl (.takePrefix _)
  | bodyExtract =>
    simp only [exec, execBodyExtract] at h
    split at h
    · cases h; exact .inl (.raise _)
    · split at h <;> cases h
      exact .inl (.takeBody _)
  | consumedCalc => cases h; exact .inl (.takeConsumed _)
  | cmdClassify => cases h; exact .inl (.takeClass _)
  | successWrite => cases h; exact .inr ⟨.inr (.inl rfl), .success _⟩
  | errorWrite => cases h; exact .inr ⟨.inr (.inr rfl), .error _⟩
  | leU8 a => exact .inl (primResult_next h)
  | leU16 a => exact .inl (primResult_next h)
  | leU32 a => exact .inl (primResult_next h)
  | leS32 a => exact .inl (primResult_next h)
  | pktMagic => cases h; exact .inl (.goto _)
  | cmdHeartbeat => cases h; exact .inl (.takeClass _)
  | cmdEcho => cases h; exact .inl (.takeClass _)
  | cmdUnknown c => cases h; exact .inl (.takeClass _)

end Sys2Proof.Machine
end

