-- ==== Sys2Proof/Laws/PerInstr.lean ====
section
/-! SUPPORT. Per-instruction families of statements about the syntax. -/

namespace Sys2Proof.Laws.EncodedLength

/-- An instruction's encoding has its format's number of bytes. -/
def Statement (i : Instr) : Prop := (encode i).length = i.format.size

theorem decode : Statement .decode := rfl
theorem hdrAvailCheck : Statement .hdrAvailCheck := rfl
theorem deserHeader : Statement .deserHeader := rfl
theorem magicCheck : Statement .magicCheck := rfl
theorem bodyAvailCheck : Statement .bodyAvailCheck := rfl
theorem sizeCheck : Statement .sizeCheck := rfl
theorem prefixRead : Statement .prefixRead := rfl
theorem bodyExtract : Statement .bodyExtract := rfl
theorem consumedCalc : Statement .consumedCalc := rfl
theorem cmdClassify : Statement .cmdClassify := rfl
theorem successWrite : Statement .successWrite := rfl
theorem errorWrite : Statement .errorWrite := rfl
theorem leU8 (a : Word) : Statement (.leU8 a) := rfl
theorem leU16 (a : Word) : Statement (.leU16 a) := rfl
theorem leU32 (a : Word) : Statement (.leU32 a) := rfl
theorem leS32 (a : Word) : Statement (.leS32 a) := rfl
theorem pktMagic : Statement .pktMagic := rfl
theorem cmdHeartbeat : Statement .cmdHeartbeat := rfl
theorem cmdEcho : Statement .cmdEcho := rfl
theorem cmdUnknown (c : Word) : Statement (.cmdUnknown c) := rfl

end Sys2Proof.Laws.EncodedLength
end

