-- ==== Sys2Proof/Laws/Step.lean ====
section
/-! SUPPORT. What a step does: what its fetched word decodes to, and that no fetched word is undecodable but for a
reserved phase (log 25). -/

namespace Sys2Proof.Machine

/-- The phase register's word is an operation in every phase of a transaction. -/
theorem decodePhase_finish (k : FinishStep) (p : BitVec 4) (hp : 1 ≤ p.toNat) :
    (∃ i, decodePhase p k.index.toNat = .ok i) ∨
      (10 ≤ p.toNat ∧ decodePhase p k.index.toNat = .error .reservedPhase) := by
  have hp' := p.isLt
  generalize hn : p.toNat = n at hp hp'
  simp only [decodePhase, hn]
  interval_cases n <;> cases k <;> simp [FinishStep.index]

/-- A phase register's byte holds the register. -/
theorem setWidth_setWidth_phase (p : BitVec 4) : (p.setWidth 8).setWidth 4 = p := by
  apply BitVec.eq_of_toNat_eq
  have := p.isLt
  simp only [BitVec.toNat_setWidth]
  omega

/-- A step in a transaction: the phase's operation, or BadPhase. -/
theorem step_phase {s : State} (h : s.phase ≠ 0) :
    step s =
      match decodePhase s.phase s.finish.index.toNat with
      | .ok i => exec i s
      | .error r => rejected r := by
  simp only [step, fetch, Phase.idle, if_pos h, decode, setWidth_setWidth_phase]
  cases decodePhase s.phase s.finish.index.toNat <;> rfl

/-- A step in IDLE with START = 1 is DECODE. -/
theorem step_start {s : State} (h : s.phase = 0) (hs : s.start = true) : step s = exec .decode s := by
  simp only [step, fetch, Phase.idle, h, hs, ne_eq, not_true_eq_false, if_false, if_true]
  rfl

/-- A step in IDLE with nothing for the block to do is the HOST's move. -/
theorem step_host {s : State} (h : s.phase = 0) (hs : s.start = false) (hq : s.primReq = none) :
    step s = hostStep s := by
  simp [step, fetch, Phase.idle, h, hs, hq]

/-- A step in IDLE with a primitive to run alone. -/
theorem step_prim {s : State} {q : PrimReq} (h : s.phase = 0) (hs : s.start = false) (hq : s.primReq = some q) :
    step s = exec (decodePrim q.sel q.addr) s := by
  have hsel : (q.sel.setWidth 8).setWidth 2 = q.sel := by
    apply BitVec.eq_of_toNat_eq
    have := q.sel.isLt
    simp only [BitVec.toNat_setWidth]
    omega
  have hw := takeWord_leBytes q.addr []
  rw [List.append_nil] at hw
  simp only [step, fetch, Phase.idle, h, hs, hq, ne_eq, not_true_eq_false, if_false, Bool.false_eq_true, decode, hw,
    hsel]

/-- A free count never passes the window's end. -/
theorem State.freeCount_le (s : State) : s.freeCount.toNat ≤ s.inLen.toNat := by
  have h1 := s.inLen.isLt
  have h2 := Nat.mod_lt (Config.freeValue s.draws 11).toNat (Nat.succ_pos s.inLen.toNat)
  simp only [State.freeCount, BitVec.toNat_ofNat]
  simp only [Nat.succ_eq_add_one] at h2
  generalize (Config.freeValue s.draws 11).toNat % (s.inLen.toNat + 1) = n at *
  omega

/-- What is left of the window when n of its bytes are dropped. -/
theorem State.dropWindow_window {s : State} {n : Word} (h : n.toNat ≤ s.inLen.toNat) :
    (s.dropWindow n).inLen.toNat + n.toNat = s.inLen.toNat ∧
      ∀ a, (s.dropWindow n).byteAt a = s.byteAt (n.toNat + a) := by
  have h1 : (s.inLen - n).toNat = s.inLen.toNat - n.toNat := by
    rw [BitVec.toNat_sub]
    have := n.isLt
    have := s.inLen.isLt
    omega
  refine ⟨by simp only [State.dropWindow_inLen, h1]; omega, fun a => ?_⟩
  simp only [State.byteAt, State.dropWindow_inLen, State.dropWindow_inBuf, h1]
  by_cases ha : a < s.inLen.toNat - n.toNat
  · rw [if_pos ha, if_pos (by omega), Memory.read_dropFront]
  · rw [if_neg ha, if_neg (by omega)]

/-- Everything a HOST move other than DECODE and reset can do: present another window in canonical form, draw a free
value, record ReadInvalid. -/
theorem hostExec_frame {o : HostOp} {s t : State} (h : hostExec o s = .next t) (hd : o ≠ .decode) (hr : o ≠ .reset) :
    t = { s with inBuf := t.inBuf, inLen := t.inLen, draws := t.draws, readInvalid := t.readInvalid } ∧
      (Memory.wf s.inBuf = true → Memory.wf t.inBuf = true) ∧ (s.readInvalid = true → t.readInvalid = true) := by
  cases o with
  | decode => exact absurd rfl hd
  | reset => exact absurd rfl hr
  | load b =>
    simp only [hostExec, hostLoad, present] at h
    split at h <;> cases h
    exact ⟨rfl, fun _ => Memory.wf_writeBytes rfl (by omega), id⟩
  | append b =>
    simp only [hostExec, hostAppend, present] at h
    split at h <;> cases h
    exact ⟨rfl, fun hw => Memory.wf_writeBytes hw (by omega), id⟩
  | advance =>
    simp only [hostExec, hostAdvance] at h
    repeat' split at h
    all_goals cases h
    · exact ⟨rfl, fun hw => Memory.wf_dropFront hw _, fun _ => rfl⟩
    · exact ⟨rfl, fun hw => Memory.wf_dropFront hw _, id⟩
    · exact ⟨rfl, fun hw => Memory.wf_dropFront hw _, id⟩
  | drop => cases h; exact ⟨rfl, fun _ => rfl, id⟩
  | expect r v =>
    simp only [hostExec, hostExpect] at h
    repeat' split at h
    all_goals cases h
    · exact ⟨rfl, id, fun _ => rfl⟩
    · exact ⟨rfl, id, id⟩

/-- No HOST move is refused as undecodable. -/
theorem hostStep_ne_undecodable (s : State) : hostStep s ≠ .refused .undecodable := by
  unfold hostStep
  split
  · simp
  · rename_i o rest _
    cases o with
    | decode =>
      obtain ⟨m, -, h⟩ | ⟨e, -, h⟩ := execDecode_cases { { s with script := rest } with start := true } <;>
        simp [hostExec, hostDecode, h]
    | load b => simp only [hostExec, hostLoad, present]; split <;> simp
    | append b => simp only [hostExec, hostAppend, present]; split <;> simp
    | advance => simp only [hostExec, hostAdvance]; repeat' split
                 all_goals simp
    | drop => simp [hostExec, hostDrop]
    | expect r v => simp only [hostExec, hostExpect]; repeat' split
                    all_goals simp
    | reset => simp [hostExec, hostReset]

theorem coreRun_next (M : Host.Core) {k : Nat} {s t : M.State} (h : M.step s = .next t) :
    M.run (k + 1) s = M.run k t := by
  simp only [Host.Core.run, h]

/-- A run goes on from its first step. -/
theorem run_next {k : Nat} {s t : State} (h : step s = .next t) :
    Host.Core.run core (k + 1) s = Host.Core.run core k t :=
  coreRun_next core h

/-- No operation is refused. -/
theorem exec_ne_refused (i : Instr) (s : State) (r : Refusal) : exec i s ≠ .refused r := by
  intro h
  cases i with
  | decode =>
    obtain ⟨m, -, hm⟩ | ⟨e, -, he⟩ := execDecode_cases s
    · rw [hm] at h; cases h
    · rw [he] at h; cases h
  | hdrAvailCheck => simp only [exec, execHdrAvailCheck, gate] at h; split at h <;> cases h
  | bodyAvailCheck => simp only [exec, execBodyAvailCheck, gate] at h; split at h <;> cases h
  | sizeCheck => simp only [exec, execSizeCheck, gate] at h; split at h <;> cases h
  | deserHeader => simp only [exec, execDeserHeader] at h; split at h <;> cases h
  | magicCheck => simp only [exec, execMagicCheck, acceptMagic] at h; split at h <;> cases h
  | prefixRead => simp only [exec, execPrefixRead, prefixRead] at h; repeat' split at h
                  all_goals cases h
  | bodyExtract => simp only [exec, execBodyExtract] at h; repeat' split at h
                   all_goals cases h
  | leU8 a => simp only [exec, execLeU8, primResult] at h; split at h <;> cases h
  | leU16 a => simp only [exec, execLeU16, primResult] at h; split at h <;> cases h
  | leU32 a => simp only [exec, execLeU32, primResult] at h; split at h <;> cases h
  | leS32 a => simp only [exec, execLeS32, primResult] at h; split at h <;> cases h
  | consumedCalc => cases h
  | cmdClassify => cases h
  | successWrite => cases h
  | errorWrite => cases h
  | pktMagic => cases h
  | cmdHeartbeat => cases h
  | cmdEcho => cases h
  | cmdUnknown c => cases h

/-- No step is refused as undecodable (log 25). -/
theorem step_ne_undecodable (s : State) : step s ≠ .refused .undecodable := by
  by_cases hp : s.phase = 0
  · cases hs : s.start with
    | true => rw [step_start hp hs]; exact exec_ne_refused _ _ _
    | false =>
      cases hq : s.primReq with
      | none => rw [step_host hp hs hq]; exact hostStep_ne_undecodable s
      | some q => rw [step_prim hp hs hq]; exact exec_ne_refused _ _ _
  · rw [step_phase hp]
    have h1 : 1 ≤ s.phase.toNat := by
      have : s.phase.toNat ≠ 0 := fun h => hp (BitVec.eq_of_toNat_eq (by simpa using h))
      omega
    obtain ⟨i, hi⟩ | ⟨-, hr⟩ := decodePhase_finish s.finish s.phase h1
    · rw [hi]; exact exec_ne_refused _ _ _
    · rw [hr]; simp [rejected]

end Sys2Proof.Machine
end

