-- ==== Sys2Proof/Tests/Slice0.lean ====
section
/-! SUPPORT. The model's own tests. Expected values come from spec/95_test_vectors.md (named W1, D1 to D13, M1 to X4)
and from the worked examples of the rules. First the tests, then one witness theorem for each statement with
hypotheses, clause by clause at the ends of the ranges. -/

namespace Sys2Proof.Tests

open Sys2Proof Sys2Proof.Machine

/-! ### Small states -/

/-- A window of these bytes, then zeros up to a length. -/
def win (len : Nat) (bytes : List Byte) : State :=
  { State.reset with inBuf := Memory.writeBytes [] 0 bytes, inLen := BitVec.ofNat 32 len }

/-- `HDR(bl)` of 95_test_vectors.md without its trailing zeros. -/
def hdr (bl : Nat) : List Byte := [5, 9, 0x16, 0x20] ++ List.replicate 20 0 ++ leBytes 2 bl ++ List.replicate 6 0

/-- `HDRc(cmd)`. -/
def hdrc (cmd : Nat) : List Byte := [5, 9, 0x16, 0x20] ++ List.replicate 12 0 ++ leBytes 4 cmd ++ [0, 0, 0, 0, 1]

/-- Vector W1's 37 bytes. -/
def ping : List Byte :=
  [5, 9, 0x16, 0x20, 1, 0, 0, 0, 1, 0, 0, 0, 0, 0, 0, 0, 0, 0, 0, 0, 0, 0, 0, 0, 5, 0, 0, 0, 0, 0, 0, 0, 4,
   0x70, 0x69, 0x6e, 0x67]

/-- W1's header. -/
def pingHeader : Header := ⟨0x20160905, 1, 1, 0, 0, 0, 5, 0, 0⟩

/-- W1's window. -/
def w1 : State := win 37 ping

/-- A header whose magic passes, with a declared length and a command. -/
def header (bl : Half) (command : Word) : Header := ⟨0x20160905, 0, 0, 0, command, 0, bl, 0, 0⟩

/-- A state in a phase, with a window length, a local header and a local prefix. -/
def mid (phase : BitVec 4) (len : Word) (h : Header) (p : Byte) : State :=
  { State.reset with phase := phase, inLen := len, tx := { Tx.initial with header := h, pfx := p } }

/-- A state whose script is to be run. -/
def hosted (ops : List HostOp) : State := { State.reset with script := ops }

/-- A state that asks for one primitive. -/
def asking (sel : BitVec 2) (a : Word) (bytes : List Byte) : State :=
  { win bytes.length bytes with primReq := some ⟨sel, a⟩ }

/-- A field of an outcome's state. -/
def got {α : Type} (o : Out) (f : State → α) : Option α :=
  match o with
  | .next t => some (f t)
  | .fault _ => none
  | .refused _ => none

/-- The state an outcome ends in, or the given one. -/
def stateOr (s : State) (o : Out) : State :=
  match o with
  | .next t => t
  | .fault _ => s
  | .refused _ => s

/-- The fault an outcome is. -/
def stopped (o : Out) : Option Fault :=
  match o with
  | .next _ => none
  | .fault r => some r
  | .refused _ => none

/-- What the HOST reads after a DECODE. -/
def reads (s : State) (rs : List Reg) : Option (List (Option Int)) :=
  got (exec .decode s) fun t => rs.map (readReg t.res)

/-! ### Well-formedness -/

theorem test_wellFormed_refuses_unknown_heartbeat : ¬ WellFormed (.cmdUnknown 0) := by decide
theorem test_wellFormed_refuses_unknown_echo : ¬ WellFormed (.cmdUnknown 1) := by decide
theorem test_wellFormed_accepts_unknown_two : WellFormed (.cmdUnknown 2) := by decide

/-! ### Words written out from R82, R85, R86, R72 and R11, every constructor -/

theorem test_word_decode : decode .req [0b00000001] = .ok (.decode, []) := by decide
theorem test_word_no_request : decode .req [0b00000000] = .error .noRequest := by decide
theorem test_word_hdrAvailCheck : decode .phase [0b00000001, 0] = .ok (.hdrAvailCheck, []) := by decide
theorem test_word_deserHeader : decode .phase [0b00000010, 0] = .ok (.deserHeader, []) := by decide
theorem test_word_magicCheck : decode .phase [0b00000011, 0] = .ok (.magicCheck, []) := by decide
theorem test_word_bodyAvailCheck : decode .phase [0b00000100, 0] = .ok (.bodyAvailCheck, []) := by decide
theorem test_word_sizeCheck : decode .phase [0b00000101, 0] = .ok (.sizeCheck, []) := by decide
theorem test_word_prefixRead : decode .phase [0b00000110, 0] = .ok (.prefixRead, []) := by decide
theorem test_word_bodyExtract : decode .phase [0b00000111, 0] = .ok (.bodyExtract, []) := by decide
theorem test_word_consumedCalc : decode .phase [0b00001000, 0] = .ok (.consumedCalc, []) := by decide
theorem test_word_cmdClassify : decode .phase [0b00001000, 1] = .ok (.cmdClassify, []) := by decide
theorem test_word_successWrite : decode .phase [0b00001000, 2] = .ok (.successWrite, []) := by decide
theorem test_word_errorWrite : decode .phase [0b00001001, 0] = .ok (.errorWrite, []) := by decide
theorem test_word_phase_idle : decode .phase [0b00000000, 0] = .error .idlePhase := by decide
theorem test_word_phase_ten : decode .phase [0b00001010, 0] = .error .reservedPhase := by decide
theorem test_word_phase_fifteen : decode .phase [0b00001111, 0] = .error .reservedPhase := by decide
theorem test_word_leU8 : decode .prim [0b00000000, 32, 0, 0, 0] = .ok (.leU8 32, []) := by decide
theorem test_word_leU16 : decode .prim [0b00000001, 24, 0, 0, 0] = .ok (.leU16 24, []) := by decide
theorem test_word_leU32 : decode .prim [0b00000010, 0, 1, 0, 0] = .ok (.leU32 256, []) := by decide
theorem test_word_leS32 : decode .prim [0b00000011, 20, 0, 0, 0] = .ok (.leS32 20, []) := by decide
theorem test_word_pktMagic : decode .magic [0x05, 0x09, 0x16, 0x20] = .ok (.pktMagic, []) := by decide
theorem test_word_big_endian_magic : decode .magic [0x20, 0x16, 0x09, 0x05] = .error .illegalMagic := by decide
theorem test_word_cmdHeartbeat : decode .command [0, 0, 0, 0] = .ok (.cmdHeartbeat, []) := by decide
theorem test_word_cmdEcho : decode .command [1, 0, 0, 0] = .ok (.cmdEcho, []) := by decide
theorem test_word_cmdUnknown : decode .command [0, 1, 0, 0] = .ok (.cmdUnknown 256, []) := by decide

/-! ### The table's words, and a step that runs them -/

theorem test_table_words :
    decodeTableWord 8 1 = some .decode ∧ decodeTableWord 8 0 = some (.leU8 0) ∧
      decodeTableWord 8 7 = some .bodyExtract ∧ decodeTableWord 8 8 = some .consumedCalc ∧
      decodeTableWord 8 9 = some .errorWrite ∧ decodeTableWord 8 10 = none ∧
      decodeTableWord 32 0x20160905 = some .pktMagic ∧ decodeTableWord 32 1 = some .cmdEcho ∧
      decodeTableWord 32 2 = some (.cmdUnknown 2) := by decide
theorem test_step_runs_table_decode :
    got (step (State.reset.withFetchWord 8 1)) (fun t => readReg t.res .resStatus) = some (some 1) := by decide
theorem test_step_runs_table_bodyExtract :
    got (step (State.reset.withFetchWord 8 7)) (fun t => (t.phase, t.tx.err)) = some (9, .insufficientData) := by decide
theorem test_step_runs_table_pktMagic :
    got (step (State.reset.withFetchWord 32 0x20160905)) State.phase = some 4 := by decide
theorem test_step_runs_table_cmdUnknown :
    got (step (State.reset.withFetchWord 32 2)) (fun t => t.tx.cls) = some 2 := by decide

/-! ### DECODE -/

/-- W1, M1 and L5. -/
theorem test_decode_ping :
    reads w1 [.resValid, .resStatus, .resConsumed, .msgValid, .hMagic, .hLogID, .hSequence, .hServiceID, .hCommand,
      .hCode, .hBodyLen, .hRsvd16, .hRsvd32, .bPrefix, .bData 0, .bData 1, .bData 2, .bData 3, .bData 4, .cmdClass] =
    some [some 1, some 0, some 37, some 1, some 0x20160905, some 1, some 1, some 0, some 0, some 0, some 5, some 0,
      some 0, some 4, some 0x70, some 0x69, some 0x6e, some 0x67, none, some 0] := by decide

/-- The status a DECODE leaves. -/
def status (s : State) : Option (Option Int) := got (exec .decode s) fun t => readReg t.res .resStatus

/-- L2, L3, L4, B2, B7. -/
theorem test_decode_insufficient :
    [status (win 31 ping), status (win 32 ping), status (win 36 ping),
      status (win 37 (hdr 5 ++ [0x0a, 0x70, 0x69, 0x6e, 0x67])), status (win 287 (hdr 255 ++ [0xff]))] =
    List.replicate 5 (some (some 1)) := by decide

/-- M2, M3, M5 and M6. -/
theorem test_decode_magic :
    [status (win 37 ([0x20, 0x16, 9, 5] ++ ping.drop 4)), status (win 37 (4 :: ping.drop 1)),
      status (win 37 ([5, 9, 0x16, 0xa0] ++ ping.drop 4)), status (win 31 [])] =
    [some (some 2), some (some 2), some (some 2), some (some 1)] := by decide

/-- L6, L7, L10, L11, L14 and L15. -/
theorem test_decode_oversized :
    [status (win 32 (hdr 0)), status (win 33 (hdr 0)), status (win 288 (hdr 256 ++ [0xff])),
      status (win 287 (hdr 256 ++ [0xff])), status (win 65567 (hdr 65535)), status (win 65566 (hdr 65535))] =
    [some (some 3), some (some 3), some (some 3), some (some 1), some (some 3), some (some 1)] := by decide

/-- B1, L8, K2, K5, S2 and B3: bodies, classes and signed codes. -/
theorem test_decode_messages :
    reads (win 37 (hdr 5 ++ [2, 0x70, 0x69, 0x6e, 0x67])) [.resConsumed, .bPrefix, .bData 1, .bData 2] =
        some [some 35, some 2, some 0x69, none] ∧
    reads (win 33 (hdr 1)) [.resStatus, .resConsumed, .bPrefix, .bData 0] = some [some 0, some 33, some 0, none] ∧
    reads (win 33 (hdrc 1)) [.cmdClass] = some [some 1] ∧ reads (win 33 (hdrc 0x100)) [.cmdClass] = some [some 2] ∧
    reads (win 33 ([5, 9, 0x16, 0x20] ++ List.replicate 19 0 ++ [0x80, 1])) [.hCode] = some [some (-2147483648)] ∧
    reads (win 43 (hdr 5 ++ [10, 0x70, 0x69, 0x6e, 0x67])) [.resConsumed, .bData 3, .bData 9] =
        some [some 43, some 0x67, some 0] := by decide

/-- B6 and B5: the largest body and the longest consistent one. -/
theorem test_decode_largest :
    reads (win 288 (hdr 255 ++ [0xff])) [.resStatus, .resConsumed, .bPrefix] = some [some 0, some 288, some 255] ∧
    reads (win 288 (hdr 255 ++ [0xfe])) [.resStatus, .resConsumed, .bPrefix] = some [some 0, some 287, some 254] := by
  decide +kernel

/-! ### The deserializer -/

/-- D12, D10, D4 and D8, run by a step. -/
theorem test_primitives :
    got (step (asking 0 0 [0xfe])) State.primOut = some 254 ∧
    got (step (asking 1 0 [0x00, 0x01])) State.primOut = some 256 ∧
    got (step (asking 2 0 [0xef, 0xbe, 0xad, 0xde])) State.primOut = some 0xdeadbeef ∧
    got (step (asking 3 0 [0xf9, 0xff, 0xff, 0xff])) State.primOut = some (-7) := by decide

/-- R51: one byte too few. -/
theorem test_primitives_out_of_window :
    stopped (step (asking 0 1 [0xfe])) = some .outOfWindow ∧ stopped (step (asking 1 1 [5, 0])) = some .outOfWindow ∧
    stopped (step (asking 2 0 [5, 9, 0x16])) = some .outOfWindow ∧
    stopped (step (asking 3 0xffffffff [5, 9, 0x16, 0x20])) = some .outOfWindow := by decide

/-- D13. -/
theorem test_deserHeader :
    got (exec .deserHeader (win 32 [5, 9, 0x16, 0x20, 0xef, 0xbe, 0xad, 0xde, 4, 3, 2, 1, 0xff, 0xff, 0xff, 0xff,
      0, 0, 0, 0, 0, 0, 0, 0, 2, 0, 0xcd, 0xab, 0x78, 0x56, 0x34, 0x12])) (fun t => (t.tx.header, t.phase)) =
    some (⟨0x20160905, 0xdeadbeef, 0x01020304, 0xffffffff, 0, 0, 2, 0xabcd, 0x12345678⟩, 3) := by decide

/-! ### The gates and the rest of the phases, at their ends -/

theorem test_hdrAvailCheck :
    got (exec .hdrAvailCheck (mid 1 32 .zero 0)) State.phase = some 2 ∧
      got (exec .hdrAvailCheck (mid 1 31 .zero 0)) State.phase = some 9 := by decide

/-- R140: "bytes 0..3 = 05 09 16 21 give magic 0x21160905 and ILLEGAL_MAGIC". -/
theorem test_magicCheck :
    got (exec .magicCheck (mid 3 32 pingHeader 0)) State.phase = some 4 ∧
      got (exec .magicCheck (mid 3 32 ⟨0x21160905, 0, 0, 0, 0, 0, 0, 0, 0⟩ 0)) (fun t => (t.phase, t.tx.err)) =
        some (9, .illegalMagic) := by decide

/-- R152: bodyLength 5 with `IN_LEN` 36 and 37. -/
theorem test_bodyAvailCheck :
    got (exec .bodyAvailCheck (mid 4 36 pingHeader 0)) State.phase = some 9 ∧
      got (exec .bodyAvailCheck (mid 4 37 pingHeader 0)) State.phase = some 5 := by decide

/-- R153: bodyLength 0, 1, 255 and 256. -/
theorem test_sizeCheck :
    got (exec .sizeCheck (mid 5 0 (header 0 0) 0)) State.phase = some 9 ∧
      got (exec .sizeCheck (mid 5 0 (header 1 0) 0)) State.phase = some 6 ∧
      got (exec .sizeCheck (mid 5 0 (header 255 0) 0)) State.phase = some 6 ∧
      got (exec .sizeCheck (mid 5 0 (header 256 0) 0)) (fun t => (t.phase, t.tx.err)) =
        some (9, .oversizedPackage) := by decide

/-- R170. -/
theorem test_prefixRead : got (exec .prefixRead { w1 with phase := 6 }) (fun t => (t.tx.pfx, t.phase)) = some (4, 7) := by
  decide

/-- R171, R172, R173 on W1. -/
theorem test_body_consumed_class :
    got (exec .bodyExtract { w1 with phase := 7, tx := { w1.tx with pfx := 4 } }) (fun t => (t.tx.body, t.phase)) =
        some ([0x70, 0x69, 0x6e, 0x67], 8) ∧
      got (exec .consumedCalc (mid 8 37 pingHeader 4)) (fun t => t.tx.consumed) = some 37 ∧
      got (exec .cmdClassify (mid 8 37 (header 1 0xffffffff) 0)) (fun t => t.tx.cls) = some 2 := by decide

/-- R84. -/
theorem test_class_names :
    [className 0, className 1, className 2, className 3] = [some "heartbeat", some "echo", some "unknown", none] := by
  decide

/-- R102 and R103. -/
theorem test_result_writes :
    got (exec .successWrite { w1 with phase := 8, tx := ⟨pingHeader, 1, [0x70], 34, 2, .illegalMagic⟩ })
        (fun t => [readReg t.res .hLogID, readReg t.res (.bData 0), readReg t.res .resConsumed, readReg t.res .cmdClass]) =
      some [some 1, some 0x70, some 34, some 2] ∧
    got (exec .errorWrite { w1 with phase := 9, tx := { Tx.initial with err := .illegalMagic } })
        (fun t => [readReg t.res .resStatus, readReg t.res .msgValid, readReg t.res .hMagic]) =
      some [some 2, some 0, none] := by decide

/-! ### The HOST -/

/-- PROG2's shape of a line, comments and pseudo-operations (R90, R91). -/
theorem test_script_text :
    parseScript "LOAD 05 fF\nNEXT     ; DECODE, ADVANCE\n\nEXPECT B_DATA[12] = -7 ; x\nFEED 67\nDROP".toList =
      some [.load [5, 0xff], .decode, .advance, .expect (.bData 12) (-7), .append [0x67], .decode, .drop] := by decide
theorem test_script_numbers :
    parseScript "EXPECT H_MAGIC = 0x20160905".toList = some [.expect .hMagic 0x20160905] ∧
      parseScript "LOAD A0 9f".toList = some [.load [0xa0, 0x9f]] := by decide
theorem test_script_text_refuses :
    parseScript "LOAD 5".toList = none ∧ parseScript "ADVANCE 1".toList = none ∧
      parseScript "EXPECT H_CODE = 0x".toList = none ∧ parseScript "LOAD 0G".toList = none := by decide

/-- PROG1's last moves, one step each: ADVANCE empties the window. -/
theorem test_host_advance :
    got (step { stateOr w1 (exec .decode w1) with script := [.advance] }) (fun t => (t.inLen, t.inBuf, t.script)) =
      some (0, [], []) := by decide

/-- DROP then ADVANCE: the script goes on, and no ReadInvalid is recorded (log 15). -/
theorem test_host_advance_past_window :
    got (step { stateOr w1 (exec .decode w1) with inBuf := [], inLen := 0, script := [.advance, .decode] })
        (fun t => (t.inBuf, t.script, t.readInvalid)) = some ([], [.decode], false) := by decide

/-- R36, R90 and R210: reads before the first DECODE are recorded, and the script goes on; another value than the
asserted one stops it (log 14). -/
theorem test_host_reads :
    got (step (hosted [.expect .resStatus 0, .drop])) (fun t => (t.readInvalid, t.script)) = some (true, [.drop]) ∧
      got (step (hosted [.advance])) State.readInvalid = some true ∧
      got (step (hosted [.expect .resValid 0])) State.readInvalid = some false ∧
      stopped (step (hosted [.expect .resValid 1])) = some .expectFailed ∧
      got (step (hosted [.expect .resValid 0])) State.script = some [] := by decide

theorem test_bad_phase : stopped (step { State.reset with phase := 10 }) = some .badPhase := by decide

/-! ### Witnesses: states that meet the hypotheses of the statements (Obligations.lean), clause by clause -/

/-- A state of the invariant in phase BODY, on W1. -/
def inBody : State := { w1 with phase := 7, tx := { Tx.initial with header := pingHeader, pfx := 4 } }

/-- The state after DECODE of W1, and after DECODE of an empty window. -/
def decoded : State := stateOr w1 (exec .decode w1)
def failed : State := stateOr State.reset (exec .decode State.reset)

/-- PROG2's window: W1, then a 35-byte echo packet. -/
def twoPackets : State :=
  win 72 (ping ++ [5, 9, 0x16, 0x20, 2, 0, 0, 0, 7, 0, 0, 0, 3, 0, 0, 0, 1, 0, 0, 0, 0, 0, 0, 0, 3, 0, 0, 0, 0, 0, 0, 0, 2,
    0x68, 0x69])

theorem inBody_inv : inBody.Inv := by constructor <;> decide +kernel
theorem decoded_inv : decoded.Inv := by constructor <;> decide +kernel
theorem failed_inv : failed.Inv := by constructor <;> decide +kernel
theorem asking_inv : (asking 0 1 [0xfe]).Inv := by constructor <;> decide +kernel

theorem witness_EveryStepKeepsTheInvariant : inBody.Inv ∧ ∃ t, step inBody = .next t := ⟨inBody_inv, _, rfl⟩

theorem witness_InvariantExcludesTheBlocksModelFaults :
    (asking 0 1 [0xfe]).Inv ∧ step (asking 0 1 [0xfe]) = .fault .outOfWindow := ⟨asking_inv, rfl⟩

theorem witness_IdleStepsEndInIdle :
    (hosted [.load ping]).phase = 0 ∧ ∃ t, step (hosted [.load ping]) = .next t := ⟨rfl, _, rfl⟩

theorem witness_StepRunsTheDecodedOperation :
    (fetch inBody = some (.phase, [7, 0]) ∧ decode .phase [7, 0] = .ok (.bodyExtract, [])) ∧
    inBody.phase ≠ 0 ∧
    ((State.reset.withFetchWord 8 1).phase = 0 ∧ (State.reset.withFetchWord 8 1).start = true) ∧
    ((asking 0 1 [0xfe]).phase = 0 ∧ (asking 0 1 [0xfe]).start = false ∧
      (asking 0 1 [0xfe]).primReq = some ⟨0, 1⟩) ∧
    ((hosted [.drop]).phase = 0 ∧ (hosted [.drop]).start = false ∧ (hosted [.drop]).primReq = none) := by decide

/-- Clause 1, then a state in each phase with each part of FINISH, and the two ends of the reserved phases. -/
theorem witness_PhaseSelectsItsMicroOperation :
    (State.reset.phase = 0 ∧ State.reset.start = false ∧ State.reset.primReq = none ∧ State.reset.script = []) ∧
    (∀ n : BitVec 4, (mid n 0 .zero 0).phase = n) ∧
    (∀ f : FinishStep, ({ mid 8 0 .zero 0 with finish := f }).finish = f) ∧
    10 ≤ (mid 10 0 .zero 0).phase.toNat ∧ 10 ≤ (mid 15 0 .zero 0).phase.toNat :=
  ⟨by decide, fun _ => rfl, fun _ => rfl, by decide, by decide⟩

theorem witness_DiscriminatorsSelectAtTheirPhase :
    ((mid 3 32 pingHeader 0).phase = 3 ∧ decodeMagic (mid 3 32 pingHeader 0).tx.header.magic = .ok .pktMagic) ∧
    (({ mid 8 33 pingHeader 0 with finish := .classify }).phase = 8 ∧
      ({ mid 8 33 pingHeader 0 with finish := .classify }).finish = .classify) := by decide

/-- The clauses of R150's table that look at more than the phase, at the ends of their ranges. -/
theorem witness_TransitionsFollowTheTable :
    (({ State.reset with start := true }).phase = 0 ∧ ({ State.reset with start := true }).start = true) ∧
    (State.reset.phase = 0 ∧ State.reset.start = false) ∧
    (32 ≤ (mid 1 32 .zero 0).inLen.toNat ∧ (mid 1 31 .zero 0).inLen.toNat < 32) ∧
    32 ≤ (mid 2 32 .zero 0).inLen.toNat ∧
    ((mid 3 32 pingHeader 0).tx.header.magic.toNat = 0x20160905 ∧
      (mid 3 32 .zero 0).tx.header.magic.toNat ≠ 0x20160905) ∧
    (32 + (mid 4 37 pingHeader 0).tx.header.bodyLength.toNat ≤ (mid 4 37 pingHeader 0).inLen.toNat ∧
      (mid 4 36 pingHeader 0).inLen.toNat < 32 + (mid 4 36 pingHeader 0).tx.header.bodyLength.toNat) ∧
    (1 ≤ (mid 5 0 (header 1 0) 0).tx.header.bodyLength.toNat ∧
      (mid 5 0 (header 255 0) 0).tx.header.bodyLength.toNat ≤ 255 ∧
      (mid 5 0 (header 0 0) 0).tx.header.bodyLength.toNat = 0 ∧
      256 ≤ (mid 5 0 (header 256 0) 0).tx.header.bodyLength.toNat) ∧
    (33 ≤ (mid 6 33 .zero 0).inLen.toNat ∧ (mid 6 32 .zero 0).inLen.toNat < 33) ∧
    (33 + (mid 7 288 .zero 255).tx.pfx.toNat ≤ (mid 7 288 .zero 255).inLen.toNat ∧
      (mid 7 287 .zero 255).inLen.toNat < 33 + (mid 7 287 .zero 255).tx.pfx.toNat) := by decide

theorem witness_MemReadIsTheLittleEndianSum : 0 < 4 ∧ 33 + 4 ≤ w1.inLen.toNat ∧ w1.inLen.toNat < 34 + 4 := by decide

theorem witness_PrimitivesReturnTheirFields :
    (36#32).toNat + 1 ≤ w1.inLen.toNat ∧ (35#32).toNat + 2 ≤ w1.inLen.toNat ∧ (33#32).toNat + 4 ≤ w1.inLen.toNat ∧
    w1.inLen.toNat < (37#32).toNat + 1 ∧ w1.inLen.toNat < (36#32).toNat + 2 ∧ w1.inLen.toNat < (34#32).toNat + 4 ∧
    (0xfffffffb#32).toNat + 4 ≤ (win (2 ^ 32 - 1) []).inLen.toNat := by decide

theorem witness_DeserHeaderReadsTheNineFields : 32 ≤ (win 32 ping).inLen.toNat := by decide

theorem witness_HdrAvailCheckTestsThirtyTwoBytes :
    32 ≤ (mid 1 32 .zero 0).inLen.toNat ∧ (mid 1 31 .zero 0).inLen.toNat ≤ 31 := by decide

theorem witness_MagicCheckComparesAllBits :
    (mid 3 32 pingHeader 0).tx.header.magic.toNat = 0x20160905 ∧
      (mid 3 32 ⟨0x20160904, 0, 0, 0, 0, 0, 0, 0, 0⟩ 0).tx.header.magic.toNat ≠ 0x20160905 := by decide

theorem witness_BodyAvailCheckTestsDeclaredBytes :
    32 + (mid 4 65567 (header 65535 0) 0).tx.header.bodyLength.toNat ≤ (mid 4 65567 (header 65535 0) 0).inLen.toNat ∧
      (mid 4 65566 (header 65535 0) 0).inLen.toNat <
        32 + (mid 4 65566 (header 65535 0) 0).tx.header.bodyLength.toNat := by decide

theorem witness_SizeCheckPassesOneToTwoFiftyFive :
    (1 ≤ (header 1 0).bodyLength.toNat ∧ (header 1 0).bodyLength.toNat ≤ 255) ∧
    (1 ≤ (header 255 0).bodyLength.toNat ∧ (header 255 0).bodyLength.toNat ≤ 255) ∧
    (header 0 0).bodyLength.toNat = 0 ∧ 256 ≤ (header 256 0).bodyLength.toNat := by decide

theorem witness_PrefixReadTakesTheByteAtThirtyTwo :
    33 ≤ (mid 6 33 .zero 0).inLen.toNat ∧ (mid 6 32 .zero 0).inLen.toNat < 33 := by decide

theorem witness_BodyExtractCopiesTheWholeBody :
    33 + (mid 7 33 .zero 0).tx.pfx.toNat ≤ (mid 7 33 .zero 0).inLen.toNat ∧
    33 + (mid 7 288 .zero 255).tx.pfx.toNat ≤ (mid 7 288 .zero 255).inLen.toNat ∧
    (mid 7 287 .zero 255).inLen.toNat < 33 + (mid 7 287 .zero 255).tx.pfx.toNat := by decide

theorem witness_CmdClassifyNamesTheCommand :
    (header 1 0).command.toNat = 0 ∧ (header 1 1).command.toNat = 1 ∧ 2 ≤ (header 1 2).command.toNat := by decide

theorem witness_SuccessWriteShowsTheMessage :
    ({ inBody with tx := ⟨pingHeader, 4, [0x70, 0x69, 0x6e, 0x67], 37, 0, .illegalMagic⟩ }).tx.body.length =
      ({ inBody with tx := ⟨pingHeader, 4, [0x70, 0x69, 0x6e, 0x67], 37, 0, .illegalMagic⟩ }).tx.pfx.toNat := by decide

theorem witness_ErrorWriteShowsNoMessage (e : ErrorKind) :
    ({ inBody with tx := { inBody.tx with err := e } }).tx.err = e := rfl

/-- The gates passed, at bodyLength 1, 5 and 255. -/
theorem gates_passed :
    w1.passesLengthGates ∧ (win 33 (hdr 1)).passesLengthGates ∧ (win 287 (hdr 255)).passesLengthGates := by
  unfold State.passesLengthGates; decide

theorem witness_DecodeShowsTheWindowsMessage :
    33 + w1.windowValue 32 1 ≤ w1.inLen.toNat ∧
    (w1.windowValue 16 4 = 0 ∧ (win 33 (hdrc 1)).windowValue 16 4 = 1 ∧ 2 ≤ (win 33 (hdrc 2)).windowValue 16 4) := by
  decide

theorem witness_DecodeDependsOnTheWindowOnly :
    min (win 65567 ping).inLen.toNat (32 + 65535) = min (win 65568 ping).inLen.toNat (32 + 65535) ∧
      State.agreeBelow (min (win 65567 ping).inLen.toNat 288) (win 65567 ping) (win 65568 ping) :=
  ⟨by decide, fun _ _ => rfl⟩

theorem witness_MultiPacketWindowsDecodeOneByOne :
    w1.inLen.toNat = 37 ∧ exec .decode w1 = .next decoded ∧ readReg decoded.res .resStatus = some 0 ∧
      readReg decoded.res .resConsumed = some 37 ∧ 37 ≤ twoPackets.inLen.toNat ∧ State.agreeBelow 37 w1 twoPackets ∧
      (win 35 ([5, 9, 0x16, 0x20, 2, 0, 0, 0, 7, 0, 0, 0, 3, 0, 0, 0, 1, 0, 0, 0, 0, 0, 0, 0, 3, 0, 0, 0, 0, 0, 0, 0, 2,
        0x68, 0x69])).inLen.toNat + 37 = twoPackets.inLen.toNat :=
  ⟨by decide, rfl, by decide, by decide, by decide, by unfold State.agreeBelow; decide, by decide⟩

/-- Body lengths 0, 4 and 254. -/
theorem witness_DecodeReadsBackTheWireImage :
    (w1.windowBegins (wireImage pingHeader [0x70, 0x69, 0x6e, 0x67]) ∧
      (pingHeader.magic.toNat = 0x20160905 ∧ pingHeader.bodyLength.toNat = 1 + 4)) ∧
    ((win 33 (hdr 1)).windowBegins (wireImage (header 1 0) []) ∧ (header 1 0).bodyLength.toNat = 1 + 0) ∧
    ((win 287 (hdr 255 ++ [0xfe])).windowBegins (wireImage (header 255 0) (List.replicate 254 0)) ∧
      (header 255 0).bodyLength.toNat = 1 + (List.replicate 254 (0 : Byte)).length) := by
  unfold State.windowBegins; decide +kernel

/-- Lengths 0, 36 of 37, and 286 of 287. -/
theorem witness_TruncatedPacketsAreInsufficient :
    State.reset.readBytes 0 State.reset.inLen.toNat =
        some ((wireImage pingHeader [0x70, 0x69, 0x6e, 0x67]).take State.reset.inLen.toNat) ∧
    ((win 36 ping).readBytes 0 36 = some ((wireImage pingHeader [0x70, 0x69, 0x6e, 0x67]).take 36) ∧
      (win 36 ping).inLen.toNat < 33 + 4) ∧
    ((win 286 (hdr 255 ++ [0xfe])).readBytes 0 286 =
        some ((wireImage (header 255 0) (List.replicate 254 0)).take 286) ∧
      (win 286 (hdr 255 ++ [0xfe])).inLen.toNat < 33 + 254) := by decide +kernel

theorem witness_MagicGatePassesExactlyTheFourBytes :
    32 ≤ (win 32 ping).inLen.toNat ∧ (win 32 ping).readBytes 0 4 = some [0x05, 0x09, 0x16, 0x20] ∧
      (win 32 (4 :: ping.drop 1)).readBytes 0 4 ≠ some [0x05, 0x09, 0x16, 0x20] := by decide

theorem witness_OversizeIsReportedOnceTheBytesAreThere :
    (win 288 (hdr 256)).windowValue 0 4 = 0x20160905 ∧
    (256 ≤ (win 288 (hdr 256)).windowValue 24 2 ∧
      32 + (win 288 (hdr 256)).windowValue 24 2 ≤ (win 288 (hdr 256)).inLen.toNat) ∧
    (256 ≤ (win 287 (hdr 256)).windowValue 24 2 ∧
      (win 287 (hdr 256)).inLen.toNat < 32 + (win 287 (hdr 256)).windowValue 24 2) ∧
    (win 287 (hdr 255)).windowValue 24 2 = 255 := by decide

/-- B1, B3 and B2. -/
theorem witness_InconsistentPacketsFollowThePrefix :
    ((win 37 (hdr 5 ++ [2])).passesLengthGates ∧
      (win 37 (hdr 5 ++ [2])).windowValue 32 1 + 1 < (win 37 (hdr 5 ++ [2])).windowValue 24 2) ∧
    ((win 43 (hdr 5 ++ [10])).passesLengthGates ∧
      (win 43 (hdr 5 ++ [10])).windowValue 24 2 < (win 43 (hdr 5 ++ [10])).windowValue 32 1 + 1 ∧
      33 + (win 43 (hdr 5 ++ [10])).windowValue 32 1 ≤ (win 43 (hdr 5 ++ [10])).inLen.toNat) ∧
    ((win 37 (hdr 5 ++ [10])).passesLengthGates ∧
      (win 37 (hdr 5 ++ [10])).inLen.toNat < 33 + (win 37 (hdr 5 ++ [10])).windowValue 32 1) := by
  unfold State.passesLengthGates; decide

/-- W1, and W1 with byte 31 = 80. -/
theorem witness_ReservedFieldsPassThroughUnexamined :
    w1.inLen = ({ w1 with inBuf := Memory.write w1.inBuf 31 0x80 }).inLen ∧
      (∀ a, a < 26 ∨ 32 ≤ a → Memory.read w1.inBuf a = Memory.read (Memory.write w1.inBuf 31 0x80) a) ∧
      Memory.read w1.inBuf 31 ≠ Memory.read (Memory.write w1.inBuf 31 0x80) 31 ∧
      readReg decoded.res .msgValid = some 1 := by
  refine ⟨by decide, fun a ha => ?_, by decide, by decide⟩
  rw [Memory.read_write (by decide), if_neg (by omega)]

theorem witness_PhaseMachineIsDecodeInNineTransitions :
    ({ w1 with start := true }).phase = 0 ∧ ({ w1 with start := true }).start = true := by decide

theorem witness_MicroStepsAreDecode :
    ({ win 31 [] with start := true }).phase = 0 ∧ ({ win 31 [] with start := true }).start = true := by decide

theorem witness_OnlyResultWritesChangeTheResults :
    (∃ t, exec .bodyExtract inBody = .next t) ∧ ∃ t, hostExec (.load ping) State.reset = .next t :=
  ⟨⟨_, rfl⟩, _, rfl⟩

theorem witness_NoOperationWritesTheWindow : ∃ t, exec .decode w1 = .next t := ⟨_, rfl⟩

theorem witness_ResValidIsClearedByResetOnly :
    (readReg ({ decoded with script := [.reset] }).res .resValid = some 1 ∧
      ∃ t, step { decoded with script := [.reset] } = .next t ∧ readReg t.res .resValid ≠ some 1) ∧
    readReg State.reset.res .resValid = some 0 :=
  ⟨⟨by decide, _, rfl, by decide⟩, by decide⟩

theorem witness_MsgValidIsOneExactlyWhenOk :
    (inBody.Inv ∧ ∃ t, step inBody = .next t) ∧ (decoded.Inv ∧ readReg decoded.res .msgValid = some 1) ∧ (failed.Inv ∧ readReg failed.res .msgValid = some 0) :=
  ⟨⟨inBody_inv, _, rfl⟩, ⟨decoded_inv, by decide⟩, failed_inv, by decide⟩

theorem witness_ReadsOfNoValueRaiseReadInvalid :
    readReg State.reset.res .resValid = some 0 ∧ readReg failed.res .msgValid = some 0 ∧
    (readReg decoded.res .bPrefix = some ((4 : Nat) : Int) ∧ readReg decoded.res (.bData 3) = some 0x67) := by decide

/-- A record from before, and the two moves that record. -/
theorem witness_RecordedReadInvalidIsNeverCleared :
    (∃ t, step { hosted [.drop] with readInvalid := true } = .next t) ∧
    (∃ t, step (hosted [.advance]) = .next t ∧ t.readInvalid = true) ∧
    (∃ t, step (hosted [.expect .hMagic 0]) = .next t ∧ t.readInvalid = true) ∧
    (hosted [.advance]).readInvalid = false ∧ SafeRun 1 (hosted [.drop]) :=
  ⟨⟨_, rfl⟩, ⟨_, rfl, rfl⟩, ⟨_, rfl, rfl⟩, rfl, _, rfl, rfl⟩

/-- R210: a recorded fault is never cleared, so a run from a state with one is not safe, whatever it does. -/
theorem test_recorded_fault_is_not_safe : ¬ SafeRun 1 { hosted [.drop] with readInvalid := true } := by
  rintro ⟨t, h, hr⟩
  cases h
  cases hr

theorem witness_HostPresentsTheWindow :
    ping.length < 2 ^ 32 ∧
    (Memory.wf (win (2 ^ 32 - 2) ping).inBuf = true ∧
      (win (2 ^ 32 - 2) ping).inLen.toNat + [(0x67 : Byte)].length < 2 ^ 32) := by decide

theorem witness_AdvanceDropsTheConsumedBytes :
    (decoded.res.resValid = true ∧ decoded.res.resConsumed.toNat ≤ decoded.inLen.toNat) ∧
    (({ decoded with inLen := 36 }).res.resValid = true ∧
      ({ decoded with inLen := 36 }).inLen.toNat < ({ decoded with inLen := 36 }).res.resConsumed.toNat) ∧
    (failed.Inv ∧ failed.res.resValid = true ∧ readReg failed.res .resStatus ≠ some 0) :=
  ⟨by decide, by decide, failed_inv, by decide, by decide⟩

theorem witness_LoadThenDecodeSeesTheLoadedWindow :
    ((hosted [.load ping, .decode]).phase = 0 ∧ (hosted [.load ping, .decode]).start = false ∧
      (hosted [.load ping, .decode]).primReq = none ∧
      (hosted [.load ping, .decode]).script = .load ping :: .decode :: [] ∧ ping.length < 2 ^ 32) ∧
    w1.inLen.toNat = ping.length ∧ ∀ i (hi : i < ping.length), w1.byteAt i = some ping[i] := by decide

theorem witness_PacketScriptsNeverStop :
    ((hosted [.load ping, .decode, .advance, .drop, .reset, .decode]).script =
        expandScript [.op (.load ping), .nextPacket, .op .drop, .op .reset, .op .decode] ∧
      (hosted [.load ping, .decode, .advance, .drop, .reset, .decode]).phase = 0 ∧
      (hosted [.load ping, .decode, .advance, .drop, .reset, .decode]).readInvalid = false) ∧
    (∀ l ∈ [HostLine.op (.load ping), .nextPacket, .op .drop, .op .reset, .op .decode], l.isPacketLine) := by
  refine ⟨by decide, fun l hl => ?_⟩
  simp only [List.mem_cons, List.not_mem_nil, or_false] at hl
  rcases hl with rfl | rfl | rfl | rfl | rfl
  · change ping.length < 2 ^ 32
    decide
  all_goals trivial

theorem witness_DecodeOfEncodeIsTheInstruction :
    WellFormed (.cmdUnknown 0xffffffff) ∧ WellFormed (.leS32 0xffffffff) ∧ WellFormed .successWrite := by decide

theorem witness_DecodedInstructionsAreWellFormed :
    decode .command [2, 0, 0, 0, 7] = .ok (.cmdUnknown 2, [7]) := by decide

end Sys2Proof.Tests
end

section
/-! SUPPORT. Decoding, one equation per code space (spec/30_encoding.md R82, R85, R86, R88): what the space's own
decoder answers for the word in front, with the bytes after the word handed back. -/

namespace Sys2Proof

theorem decode_req (b : Byte) (rest : List Byte) :
    decode .req (b :: rest) = (decodeReq b).map (·, rest) := by
  rw [decode]
  cases decodeReq b <;> rfl

theorem decode_phase (c k : Byte) (rest : List Byte) :
    decode .phase (c :: k :: rest) = (decodePhase (c.setWidth 4) k.toNat).map (·, rest) := by
  rw [decode]
  cases decodePhase (c.setWidth 4) k.toNat <;> rfl

theorem decode_prim (sel : Byte) (a : Word) (rest : List Byte) :
    decode .prim (sel :: (leBytes 4 a.toNat ++ rest)) = .ok (decodePrim (sel.setWidth 2) a, rest) := by
  simp only [decode, takeWord_leBytes]

theorem decode_magic (m : Word) (rest : List Byte) :
    decode .magic (leBytes 4 m.toNat ++ rest) = (decodeMagic m).map (·, rest) := by
  simp only [decode, takeWord_leBytes]
  cases decodeMagic m <;> rfl

theorem decode_command (c : Word) (rest : List Byte) :
    decode .command (leBytes 4 c.toNat ++ rest) = .ok (decodeCommand c, rest) := by
  simp only [decode, takeWord_leBytes]

end Sys2Proof
end

section
/-! SUPPORT. The invariant (Safety.lean) in IDLE. Its clauses about phases 2 to 9 ask nothing there, so what is left of
it is the window's memory, the initial local values and the result registers. -/

namespace Sys2Proof.Machine

/-- The clauses of the invariant that speak of the result registers alone (R10, R26, R27, R154, R172, R173). -/
structure Results.Legal (r : Results) : Prop where
  bodyRegisters : r.bData.length = 255
  msgValid : r.msgValid = true ↔ r.resValid = true ∧ r.resStatus = 0
  errorConsumed : r.resValid = true → r.resStatus ≠ 0 → r.resConsumed = 0
  message : r.msgValid = true →
    r.header.magic = 0x20160905#32 ∧ 1 ≤ r.header.bodyLength.toNat ∧ r.header.bodyLength.toNat ≤ 255 ∧
      r.resConsumed.toNat = 33 + r.bPrefix.toNat ∧ r.cmdClass = classify config r.header.command

/-- Before the first transaction both flags are 0 (R37), so the result registers owe nothing but their number. -/
theorem Results.legal_reset : Results.reset.Legal where
  bodyRegisters := List.length_replicate
  msgValid := by simp [Results.reset]
  errorConsumed := fun hvalid => by cases hvalid
  message := fun hvalid => by cases hvalid

/-- An IDLE state with nothing of a transaction left (R157) meets the invariant as soon as its memory and its result
registers do. -/
theorem State.inv_of_idle {s : State} (hphase : s.phase = 0) (hfinish : s.finish = .consumed)
    (htx : s.tx = Tx.initial) (hmem : Memory.wf s.inBuf = true) (hres : s.res.Legal) : s.Inv := by
  obtain ⟨hbody, hmsg, herr, hmessage⟩ := hres
  have hzero : s.phase.toNat = 0 := by simp [hphase]
  have hne : ∀ p : BitVec 4, p ≠ 0 → s.phase ≠ p := fun p hp h => hp (h.symm.trans hphase)
  exact {
    memory := hmem
    bodyRegisters := hbody
    phase := by omega
    idle := fun _ => htx
    finishFirst := fun _ => hfinish
    msgValid := hmsg
    errorConsumed := herr
    message := hmessage
    header := by omega
    deserialized := by omega
    magic := by omega
    declared := by omega
    size := by omega
    pfx := by omega
    body := fun h => absurd h (hne 8 (by decide))
    consumed := fun h => absurd h (hne 8 (by decide))
    cls := fun h => absurd h (hne 8 (by decide))
    err := fun h => absurd h (hne 9 (by decide)) }

end Sys2Proof.Machine
end

section
/-! The statements of spec/00_scope.md: the parameters, the reset state, and words written out from the encodings. -/

namespace Sys2Proof.Machine

/-- Settles O1: the record of parameters is read field by field (R5, R6, R7, R11). -/
theorem parametersHoldTheDocumentsValues : Obligations.ParametersHoldTheDocumentsValues :=
  ⟨rfl, rfl, rfl, rfl, rfl⟩

/-- Settles O4: reset is IDLE with an empty window, the initial local values and both flags 0. -/
theorem resetMeetsTheInvariant : Obligations.ResetMeetsTheInvariant :=
  State.inv_of_idle rfl rfl rfl rfl Results.legal_reset

/-- Settles O55: each word is read by the equation of its code space, and that space's own table gives the answer. The
offset, the magic and the command stand in their four little-endian bytes, so the bytes of MAGIC in the other order are
the word 0x05091620, which is no magic. -/
theorem writtenWordsDecode : Obligations.WrittenWordsDecode :=
  ⟨decode_req 1 [], decode_phase 2 0 [], decode_phase 9 0 [], decode_phase 10 0 [], decode_prim 3 20 [],
    decode_magic 0x20160905 [], decode_magic 0x05091620 [], decode_command 1 []⟩

end Sys2Proof.Machine
end

section
/-! SUPPORT. HOST reads of the result registers (spec/10_state.md R23, R24, R27, R30): what a read says of the stored
bits, and which registers hold no value. -/

namespace Sys2Proof.Machine

theorem validWhen_eq_some {c : Bool} {v w : Int} : validWhen c v = some w ↔ c = true ∧ v = w := by
  cases c <;> simp [validWhen]

theorem readReg_resValid_eq_one {r : Results} : readReg r .resValid = some 1 ↔ r.resValid = true := by
  cases h : r.resValid <;> simp [readReg, h]

theorem readReg_resValid_eq_zero {r : Results} : readReg r .resValid = some 0 ↔ r.resValid = false := by
  cases h : r.resValid <;> simp [readReg, h]

theorem readReg_msgValid_eq_one {r : Results} : readReg r .msgValid = some 1 ↔ r.msgValid = true := by
  cases h : r.msgValid <;> simp [readReg, h]

theorem readReg_msgValid_eq_zero {r : Results} : readReg r .msgValid = some 0 ↔ r.msgValid = false := by
  cases h : r.msgValid <;> simp [readReg, h]

/-- The status reads OK exactly where a DECODE has completed and stored OK (R24, R25). -/
theorem readReg_resStatus_eq_zero {r : Results} :
    readReg r .resStatus = some 0 ↔ r.resValid = true ∧ r.resStatus = 0 := by
  rw [readReg, validWhen_eq_some, Int.natCast_eq_zero, ← BitVec.toNat_inj]
  rfl

/-- Before the first DECODE the status and the consumed count hold no value (R24). -/
theorem readReg_none_of_resValid_false {r : Results} (h : r.resValid = false) :
    readReg r .resStatus = none ∧ readReg r .resConsumed = none := by
  simp [readReg, validWhen, h]

/-- Without a message the message registers hold no value (R27). -/
theorem readReg_none_of_msgValid_false {r : Results} (h : r.msgValid = false) {x : Reg} (hx : x.isMessage) :
    readReg r x = none := by
  cases x with
  | resValid | resStatus | resConsumed | msgValid => exact hx.elim
  | _ => simp [readReg, validWhen, h]

/-- From `B_PREFIX` on the body registers hold no value (R30). -/
theorem readReg_bData_none {r : Results} {i : Nat} (hi : r.bPrefix.toNat ≤ i) : readReg r (.bData i) = none := by
  simp [readReg, hi]

/-- Two results of one error read the same in every register (R103). -/
theorem ShowsError.sameResults {r r' : Results} {code : Int} (h : ShowsError r code) (h' : ShowsError r' code) :
    SameResults r r' := by
  obtain ⟨hvalid, hstatus, hmsg, hconsumed, hnone⟩ := h
  obtain ⟨hvalid', hstatus', hmsg', hconsumed', hnone'⟩ := h'
  have hmessage : ∀ {x : Reg}, x.isMessage → readReg r x = readReg r' x :=
    fun hx => (hnone _ hx).trans (hnone' _ hx).symm
  intro x
  cases x with
  | resValid => rw [hvalid, hvalid']
  | resStatus => rw [hstatus, hstatus']
  | resConsumed => rw [hconsumed, hconsumed']
  | msgValid => rw [hmsg, hmsg']
  | _ => exact hmessage trivial

/-- After a success write the body registers hold the message's body, whatever was drawn (R102). -/
theorem readReg_success_bData {m : Message} (hlen : m.body.length = m.pfx.toNat) (d i : Nat) :
    readReg (.success m d) (.bData i) = m.body[i]?.map fun b => (b.toNat : Int) := by
  obtain ⟨-, -, -, hbody, hpast, -⟩ := showsMessage m d hlen
  by_cases hi : i < m.body.length
  · rw [hbody i hi, List.getElem?_eq_getElem hi]
    rfl
  · rw [hpast i (by omega), List.getElem?_eq_none (by omega), Option.map_none]

/-- A message's reserved header fields reach their own two registers alone (R29). -/
theorem readReg_success_reserved {m : Message} (hlen : m.body.length = m.pfx.toNat) (d d' : Nat) (x16 : Half)
    (x32 : Word) {x : Reg} (h16 : x ≠ .hRsvd16) (h32 : x ≠ .hRsvd32) :
    readReg (.success m d) x =
      readReg (.success { m with header := { m.header with rsvd16 := x16, rsvd32 := x32 } } d') x := by
  cases x with
  | hRsvd16 => exact absurd rfl h16
  | hRsvd32 => exact absurd rfl h32
  | bData i => exact (readReg_success_bData hlen d i).trans (readReg_success_bData hlen d' i).symm
  | _ => rfl

end Sys2Proof.Machine
end

section
/-! SUPPORT. What a step does to the result registers and to the phase: through the updates of exec
(Laws/Operations.lean) and the HOST's moves (Laws/Step.lean), said once for a whole step. -/

namespace Sys2Proof.Machine

theorem LocalUpdate.res_eq {s t : State} (h : LocalUpdate s t) : t.res = s.res := by
  cases h <;> rfl

/-- A result write ends its transaction (R102, R103). -/
theorem ResultUpdate.phase_eq {s t : State} (h : ResultUpdate s t) : t.phase = 0 := by
  cases h <;> rfl

/-- The result registers after a result write are those of R102 or of R103. -/
theorem ResultUpdate.res_cases {s t : State} (h : ResultUpdate s t) :
    (∃ m d, t.res = .success m d) ∨ ∃ e d, t.res = .error e d := by
  cases h with
  | success m | decodeSuccess m => exact .inl ⟨m, s.draws, rfl⟩
  | error e | decodeError e => exact .inr ⟨e, s.draws, rfl⟩

/-- DECODE completes with a result write (R100). -/
theorem execDecode_resultUpdate (s : State) : ∃ t, exec .decode s = .next t ∧ ResultUpdate s t := by
  obtain ⟨m, -, hm⟩ | ⟨e, -, he⟩ := execDecode_cases s
  · exact ⟨_, hm, .decodeSuccess m⟩
  · exact ⟨_, he, .decodeError e⟩

theorem exec_decode_of_accept {s : State} {m : Message} (h : decodeVerdict config s = .accept m) :
    exec .decode s = .next (s.clearStart.writeSuccess m) := by
  simp only [exec, execDecode, h, writeVerdict]

theorem exec_decode_of_raise {s : State} {e : ErrorKind} (h : decodeVerdict config s = .raise e) :
    exec .decode s = .next (s.clearStart.writeError e) := by
  simp only [exec, execDecode, h, writeVerdict]

/-- A primitive run alone goes on by returning its value. -/
theorem exec_decodePrim_next {sel : BitVec 2} {a : Word} {s t : State} (h : exec (decodePrim sel a) s = .next t) :
    ∃ v, t = s.returnPrim v := by
  have hprim : ∃ v, exec (decodePrim sel a) s = primResult v s := by
    unfold decodePrim
    split <;> exact ⟨_, rfl⟩
  obtain ⟨v, hv⟩ := hprim
  rw [hv] at h
  cases v with
  | none => cases h
  | some v => cases h; exact ⟨v, rfl⟩

/-- What a HOST move does to the result registers and to the phase: DECODE writes a result, reset writes R37's values,
and every other move leaves both. -/
theorem hostExec_cases {o : HostOp} {s t : State} (h : hostExec o s = .next t) :
    (o = .decode ∧ ResultUpdate { s with start := true } t) ∨ (o = .reset ∧ t.res = .reset ∧ t.phase = 0) ∨
      (t.res = s.res ∧ t.phase = s.phase) := by
  by_cases hd : o = .decode
  · subst hd
    obtain ⟨u, hu, hres⟩ := execDecode_resultUpdate { s with start := true }
    cases hu.symm.trans h
    exact .inl ⟨rfl, hres⟩
  by_cases hr : o = .reset
  · subst hr
    cases h
    exact .inr (.inl ⟨rfl, rfl, rfl⟩)
  · obtain ⟨hframe, -, -⟩ := hostExec_frame h hd hr
    rw [hframe]
    exact .inr (.inr ⟨rfl, rfl⟩)

/-- The HOST's move is its next operation, or with none pending nothing. -/
theorem hostStep_next {s t : State} (h : hostStep s = .next t) :
    t = s ∨ ∃ o rest, s.script = o :: rest ∧ hostExec o { s with script := rest } = .next t := by
  unfold hostStep at h
  split at h
  next => cases h; exact .inl rfl
  next o rest hscript => exact .inr ⟨o, rest, hscript, h⟩

/-- With a word to fetch that decodes, a step is that operation (R21). -/
theorem step_of_fetch {s : State} {f : Format} {bytes rest : List Byte} {i : Instr} (hf : fetch s = some (f, bytes))
    (hd : decode f bytes = .ok (i, rest)) : step s = exec i s := by
  simp only [step, hf, hd]

/-- A step that goes on has run an operation of the block, or is the HOST's move. -/
theorem step_next {s t : State} (h : step s = .next t) :
    (∃ i, exec i s = .next t) ∨ (fetch s = none ∧ hostStep s = .next t) := by
  cases hf : fetch s with
  | none => exact .inr ⟨rfl, by simpa only [step, hf] using h⟩
  | some w =>
    obtain ⟨f, bytes⟩ := w
    cases hd : decode f bytes with
    | ok p => exact .inl ⟨p.1, step_of_fetch hf hd ▸ h⟩
    | error e =>
      simp only [step, hf, hd] at h
      cases e <;> cases h

/-- The result registers after a step from s: kept, written by R102 or R103, or reset by the HOST. -/
inductive ResultsAfterStep (s : State) : Results → Prop where
  | kept : ResultsAfterStep s s.res
  | success (m : Message) (d : Nat) : ResultsAfterStep s (.success m d)
  | error (e : ErrorKind) (d : Nat) : ResultsAfterStep s (.error e d)
  | reset (hfetch : fetch s = none) (hscript : s.script.head? = some .reset) : ResultsAfterStep s .reset

theorem ResultsAfterStep.of_resultUpdate {s u t : State} (h : ResultUpdate u t) : ResultsAfterStep s t.res := by
  obtain ⟨m, d, hres⟩ | ⟨e, d, hres⟩ := h.res_cases
  · exact hres ▸ .success m d
  · exact hres ▸ .error e d

/-- Everything a step can do to the result registers (R23). -/
theorem step_results {s t : State} (h : step s = .next t) : ResultsAfterStep s t.res := by
  obtain ⟨i, hi⟩ | ⟨hfetch, hhost⟩ := step_next h
  · obtain hlocal | ⟨-, hresult⟩ := exec_next hi
    · exact hlocal.res_eq ▸ .kept
    · exact .of_resultUpdate hresult
  · obtain rfl | ⟨o, rest, hscript, ho⟩ := hostStep_next hhost
    · exact .kept
    · obtain ⟨-, hresult⟩ | ⟨rfl, hres, -⟩ | ⟨hres, -⟩ := hostExec_cases ho
      · exact .of_resultUpdate hresult
      · exact hres ▸ .reset hfetch (by rw [hscript]; rfl)
      · exact hres ▸ .kept

/-! ### The flags of the result registers (R27) -/

theorem ErrorKind.status_ne_ok (e : ErrorKind) : e.status ≠ 0 := by
  cases e <;> decide

/-- `MSG_VALID` is 1 iff `RES_VALID = 1` and `RES_STATUS = OK` (R27), on the stored bits. -/
def Results.FlagsAgree (r : Results) : Prop := r.msgValid = true ↔ r.resValid = true ∧ r.resStatus = 0

theorem Results.flagsAgree_reset : Results.reset.FlagsAgree := Results.legal_reset.msgValid

theorem Results.flagsAgree_success (m : Message) (d : Nat) : (Results.success m d).FlagsAgree := by
  simp [Results.FlagsAgree, Results.success]

theorem Results.flagsAgree_error (e : ErrorKind) (d : Nat) : (Results.error e d).FlagsAgree :=
  iff_of_false Bool.false_ne_true fun ⟨_, hstatus⟩ => e.status_ne_ok hstatus

/-- Every step keeps R27. -/
theorem ResultsAfterStep.flagsAgree {s : State} {r : Results} (h : ResultsAfterStep s r) (hs : s.res.FlagsAgree) :
    r.FlagsAgree := by
  cases h with
  | kept => exact hs
  | success m d => exact Results.flagsAgree_success m d
  | error e d => exact Results.flagsAgree_error e d
  | reset => exact Results.flagsAgree_reset

/-- R27 as the HOST reads it after a result. -/
theorem Results.FlagsAgree.readReg_iff {r : Results} (h : r.FlagsAgree) :
    readReg r .msgValid = some 1 ↔ readReg r .resStatus = some 0 :=
  readReg_msgValid_eq_one.trans (h.trans readReg_resStatus_eq_zero.symm)

/-- R27 in full: the HOST reads the flag by the other two, and no message while it is 0. -/
theorem Results.FlagsAgree.reads {r : Results} (h : r.FlagsAgree) :
    (readReg r .msgValid = some 1 ↔ readReg r .resValid = some 1 ∧ readReg r .resStatus = some 0) ∧
      (readReg r .msgValid = some 0 → ∀ x, x.isMessage → readReg r x = none) := by
  refine ⟨?_, fun hmsg x hx => readReg_none_of_msgValid_false (readReg_msgValid_eq_zero.1 hmsg) hx⟩
  rw [h.readReg_iff, readReg_resValid_eq_one, readReg_resStatus_eq_zero, and_self_left]

end Sys2Proof.Machine
end

section
/-! SUPPORT. The reserved header bytes 26 to 31 (spec/10_state.md R29): windows that differ in them alone have one
verdict, with the same message but for the two reserved fields. -/

namespace Sys2Proof.Machine

/-- Two windows of one length that agree on every byte but 26 to 31. -/
structure State.AgreeOffReserved (s s' : State) : Prop where
  inLen : s.inLen = s'.inLen
  read : ∀ a, a < 26 ∨ 32 ≤ a → Memory.read s.inBuf a = Memory.read s'.inBuf a

/-- A field before the reserved bytes has one value. -/
theorem State.AgreeOffReserved.windowValue_eq {s s' : State} (h : s.AgreeOffReserved s') {a n : Nat}
    (ha : a + n ≤ 26) : s.windowValue a n = s'.windowValue a n :=
  State.windowValue_congr (n := 26) (fun b hb => h.read b (.inl hb)) ha

/-- The two headers differ in the reserved fields alone. -/
theorem State.AgreeOffReserved.rawHeader_eq {s s' : State} (h : s.AgreeOffReserved s') :
    s'.rawHeader = { s.rawHeader with rsvd16 := s'.rawHeader.rsvd16, rsvd32 := s'.rawHeader.rsvd32 } := by
  have hfield : ∀ a n, a + n ≤ 26 → s.windowValue a n = s'.windowValue a n := fun a n => h.windowValue_eq
  simp [State.rawHeader, hfield]

theorem State.AgreeOffReserved.rawBytes_eq {s s' : State} (h : s.AgreeOffReserved s') {a : Nat} (ha : 32 ≤ a)
    (n : Nat) : s.rawBytes a n = s'.rawBytes a n :=
  List.map_congr_left fun i _ => h.read (a + i) (.inr (by omega))

/-- The reserved bytes reach no gate, and of an accepted packet only the header (R29, R77). -/
theorem State.AgreeOffReserved.verdicts {s s' : State} (h : s.AgreeOffReserved s') :
    (∃ e, decodeVerdict config s = .raise e ∧ decodeVerdict config s' = .raise e) ∨
    (∃ p body, body.length = p.toNat ∧ decodeVerdict config s = .accept (assemble config s.rawHeader p body) ∧
      decodeVerdict config s' = .accept (assemble config s'.rawHeader p body)) := by
  rw [decodeVerdict_eq, decodeVerdict_eq, ← h.inLen, ← h.windowValue_eq (show 0 + 4 ≤ 26 by omega),
    ← h.windowValue_eq (show 24 + 2 ≤ 26 by omega), windowValue_one, windowValue_one, ← h.read 32 (by omega),
    ← h.rawBytes_eq (show 32 ≤ 33 by omega)]
  repeat' split
  case isFalse.isFalse.isFalse.isFalse.isFalse => exact .inr ⟨_, _, s.rawBytes_length 33 _, rfl, rfl⟩
  all_goals exact .inl ⟨_, rfl, rfl⟩

theorem rawHeader_rsvd16 (s : State) : s.rawHeader.rsvd16.toNat = s.windowValue 26 2 := by
  have := s.windowValue_lt 26 2
  simp only [State.rawHeader, BitVec.toNat_ofNat]
  omega

theorem rawHeader_rsvd32 (s : State) : s.rawHeader.rsvd32.toNat = s.windowValue 28 4 := by
  have := s.windowValue_lt 28 4
  simp only [State.rawHeader, BitVec.toNat_ofNat]
  omega

end Sys2Proof.Machine
end

section
/-! SUPPORT. The word a step fetches, place by place (spec/30_encoding.md R82, R85, R86). -/

namespace Sys2Proof.Machine

theorem fetch_phase {s : State} (h : s.phase ≠ 0) : fetch s = some (.phase, [s.phase.setWidth 8, s.finish.index]) :=
  if_pos h

theorem fetch_start {s : State} (h : s.phase = 0) (hs : s.start = true) : fetch s = some (.req, [1]) := by
  rw [fetch, if_neg (not_not.2 h), if_pos hs]

theorem fetch_prim {s : State} {q : PrimReq} (h : s.phase = 0) (hs : s.start = false) (hq : s.primReq = some q) :
    fetch s = some (.prim, q.sel.setWidth 8 :: leBytes 4 q.addr.toNat) := by
  rw [fetch, if_neg (not_not.2 h), if_neg (by simp [hs]), hq]

end Sys2Proof.Machine
end

section
/-! SUPPORT. The HOST's reads (spec/30_encoding.md R90; spec/10_state.md R36): EXPECT by what the register reads as, and
ADVANCE before the first DECODE. -/

namespace Sys2Proof.Machine

theorem hostExec_expect_none {s : State} {r : Reg} (h : readReg s.res r = none) (v : Int) :
    hostExec (.expect r v) s = .next s.recordReadInvalid := by
  simp only [hostExec, hostExpect, h]

theorem hostExec_expect_value {s : State} {r : Reg} {v : Int} (h : readReg s.res r = some v) :
    hostExec (.expect r v) s = .next s := by
  simp only [hostExec, hostExpect, h, if_true]

theorem hostExec_advance_of_no_result {s : State} (h : s.res.resValid = false) :
    hostExec .advance s = .next { (s.dropWindow s.freeCount).recordReadInvalid with draws := s.draws + 1 } := by
  simp only [hostExec, hostAdvance, h, Bool.not_false, if_true]

end Sys2Proof.Machine
end

section
/-! The statements of spec/10_state.md. -/

namespace Sys2Proof.Machine

/-- Settles O7, by what may run in IDLE: DECODE ends in IDLE, a lone primitive and the HOST's moves leave the phase, and
the HOST's DECODE and reset end in IDLE too. -/
theorem idleStepsEndInIdle : Obligations.IdleStepsEndInIdle := by
  intro s t hidle hstep
  cases hs : s.start with
  | true =>
    obtain ⟨u, hu, hres⟩ := execDecode_resultUpdate s
    rw [step_start hidle hs] at hstep
    cases hu.symm.trans hstep
    exact hres.phase_eq
  | false =>
    cases hq : s.primReq with
    | some q =>
      rw [step_prim hidle hs hq] at hstep
      obtain ⟨v, rfl⟩ := exec_decodePrim_next hstep
      exact hidle
    | none =>
      rw [step_host hidle hs hq] at hstep
      obtain rfl | ⟨o, rest, -, ho⟩ := hostStep_next hstep
      · exact hidle
      · obtain ⟨-, hres⟩ | ⟨-, -, hphase⟩ | ⟨-, hphase⟩ := hostExec_cases ho
        · exact hres.phase_eq
        · exact hphase
        · exact hphase.trans hidle

/-- Settles O38: the two windows have one verdict. Where it is an error both show that error; where it is a message the
two differ in the reserved fields alone, and those are the header's own bytes. -/
theorem reservedFieldsPassThroughUnexamined : Obligations.ReservedFieldsPassThroughUnexamined := by
  intro s s' hlen hread
  have hagree : s.AgreeOffReserved s' := ⟨hlen, hread⟩
  obtain ⟨e, he, he'⟩ | ⟨p, body, hbody, hm, hm'⟩ := hagree.verdicts
  · refine ⟨_, _, exec_decode_of_raise he, exec_decode_of_raise he', fun r _ _ => ?_, fun hmsg => ?_⟩
    · exact (showsError e _).sameResults (showsError e _) r
    · cases readReg_msgValid_eq_one.1 hmsg
  · refine ⟨_, _, exec_decode_of_accept hm, exec_decode_of_accept hm', fun r h16 h32 => ?_, fun _ => ?_⟩
    · rw [hagree.rawHeader_eq]
      exact readReg_success_reserved hbody s.draws s'.draws _ _ h16 h32
    · rw [← rawHeader_rsvd16, ← rawHeader_rsvd32]
      exact ⟨rfl, rfl⟩

/-- Settles O42: what is not a result write is a local update, and a HOST move other than DECODE and reset keeps the
result registers. -/
theorem onlyResultWritesChangeTheResults : Obligations.OnlyResultWritesChangeTheResults := by
  refine ⟨fun i s t h hdecode hsuccess herror => ?_, fun o s t h hdecode hreset => ?_⟩
  · obtain hlocal | ⟨rfl | rfl | rfl, -⟩ := exec_next h
    · exact hlocal.res_eq
    · exact absurd rfl hdecode
    · exact absurd rfl hsuccess
    · exact absurd rfl herror
  · obtain ⟨rfl, -⟩ | ⟨rfl, -⟩ | ⟨hres, -⟩ := hostExec_cases h
    · exact absurd rfl hdecode
    · exact absurd rfl hreset
    · exact hres

/-- Settles O44: both result writes set the flag, so of what a step can do to the result registers only the HOST's reset
takes it away. -/
theorem resValidIsClearedByResetOnly : Obligations.ResValidIsClearedByResetOnly := by
  refine ⟨rfl, fun s => ?_, fun s t hvalid hstep hcleared => ?_, fun s hinvalid => ?_⟩
  · obtain ⟨t, ht, hresult⟩ := execDecode_resultUpdate s
    obtain ⟨m, d, hres⟩ | ⟨e, d, hres⟩ := hresult.res_cases
    · exact ⟨t, ht, by rw [hres]; rfl⟩
    · exact ⟨t, ht, by rw [hres]; rfl⟩
  · have hafter := step_results hstep
    generalize t.res = r at hafter hcleared
    cases hafter with
    | kept => exact absurd hvalid hcleared
    | success m d | error e d => exact absurd rfl hcleared
    | reset hfetch hscript => exact ⟨hfetch, hscript⟩
  · exact readReg_none_of_resValid_false (readReg_resValid_eq_zero.1 hinvalid)

/-- Settles O45: R27 holds of the reset values and of both result writes, and every step keeps it. -/
theorem msgValidIsOneExactlyWhenOk : Obligations.MsgValidIsOneExactlyWhenOk := by
  refine ⟨rfl, fun s => ?_, fun s t hinv hstep => ?_, fun s hinv => ?_⟩
  · obtain ⟨t, ht, hresult⟩ := execDecode_resultUpdate s
    obtain ⟨m, d, hres⟩ | ⟨e, d, hres⟩ := hresult.res_cases
    · exact ⟨t, ht, hres ▸ (Results.flagsAgree_success m d).readReg_iff⟩
    · exact ⟨t, ht, hres ▸ (Results.flagsAgree_error e d).readReg_iff⟩
  · exact ((step_results hstep).flagsAgree hinv.msgValid).reads
  · exact Results.FlagsAgree.reads hinv.msgValid

/-- Settles O2: at reset neither flag is set, and every other register holds no value under one of the two. -/
theorem resetHoldsTheRulesValues : Obligations.ResetHoldsTheRulesValues := by
  refine ⟨rfl, rfl, rfl, fun r hres hmsg => ?_⟩
  obtain ⟨hstatus, hconsumed⟩ := readReg_none_of_resValid_false (r := State.reset.res) rfl
  cases r with
  | resValid => exact absurd rfl hres
  | msgValid => exact absurd rfl hmsg
  | resStatus => exact hstatus
  | resConsumed => exact hconsumed
  | _ => exact readReg_none_of_msgValid_false rfl trivial

/-- Settles O8: a step is its fetch and that word's decoding, and the fetch looks at the places in their order. -/
theorem stepRunsTheDecodedOperation : Obligations.StepRunsTheDecodedOperation :=
  ⟨fun _ _ _ _ _ => step_of_fetch, fun _ => fetch_phase, fun _ => fetch_start, fun _ _ => fetch_prim,
    fun _ => step_host⟩

/-- Settles O46: an EXPECT goes by what the register reads as, and an ADVANCE with no result drops a free count that the
window holds. -/
theorem readsOfNoValueRaiseReadInvalid : Obligations.ReadsOfNoValueRaiseReadInvalid := by
  refine ⟨fun s v h => ?_, fun s h => ?_, fun s r v h hr => ?_, fun s i p v h hi => ?_, fun s r v => ?_⟩
  · obtain ⟨hstatus, hconsumed⟩ := readReg_none_of_resValid_false (readReg_resValid_eq_zero.1 h)
    exact ⟨hostExec_expect_none hstatus v, hostExec_expect_none hconsumed v⟩
  · obtain ⟨hlen, hbytes⟩ := State.dropWindow_window s.freeCount_le
    have hadvance := hostExec_advance_of_no_result (readReg_resValid_eq_zero.1 h)
    exact ⟨_, s.freeCount.toNat, hadvance, rfl, rfl, hlen, hbytes⟩
  · exact hostExec_expect_none (readReg_none_of_msgValid_false (readReg_msgValid_eq_zero.1 h) hr) v
  · obtain ⟨-, hp⟩ := validWhen_eq_some.1 h
    exact hostExec_expect_none (readReg_bData_none (by omega)) v
  · exact hostExec_expect_value

end Sys2Proof.Machine
end

section
/-! SUPPORT. The window under the block's operations (spec/20_memory.md R50, R57): no update of exec
(Laws/Operations.lean) writes it. -/

namespace Sys2Proof.Machine

theorem LocalUpdate.window_eq {s t : State} (h : LocalUpdate s t) : t.inBuf = s.inBuf ∧ t.inLen = s.inLen := by
  cases h <;> exact ⟨rfl, rfl⟩

/-- A result write leaves the window and the HOST's side alone (R57). -/
theorem ResultUpdate.samePorts {s t : State} (h : ResultUpdate s t) : s.samePorts t := by
  cases h <;> exact ⟨rfl, rfl, fun _ => rfl, rfl, rfl, rfl, rfl⟩

theorem exec_window_eq {i : Instr} {s t : State} (h : exec i s = .next t) :
    t.inBuf = s.inBuf ∧ t.inLen = s.inLen := by
  obtain hlocal | ⟨-, hresult⟩ := exec_next h
  · exact hlocal.window_eq
  · obtain ⟨hbuf, hlen, -⟩ := hresult.samePorts
    exact ⟨hbuf, hlen⟩

end Sys2Proof.Machine
end

section
/-! SUPPORT. DECODE as a function of the window (spec/10_state.md R39; spec/20_memory.md R60): its verdict looks at the
length up to 32 + 65535 and at the first 288 bytes, and its results show the verdict whatever free values are drawn. -/

namespace Sys2Proof.Machine

/-- What R60 lets a DECODE depend on is the same in two states. -/
structure State.SameDecodeInput (s s' : State) : Prop where
  inLen : min s.inLen.toNat (32 + 65535) = min s'.inLen.toNat (32 + 65535)
  bytes : State.agreeBelow (min s.inLen.toNat 288) s s'

/-- No gate tells the two lengths apart: it compares with at most 32 + 65535. -/
theorem State.SameDecodeInput.lt_iff {s s' : State} (h : s.SameDecodeInput s') {k : Nat} (hk : k ≤ 32 + 65535) :
    s'.inLen.toNat < k ↔ s.inLen.toNat < k := by
  have := h.inLen
  omega

/-- A field that lies in the window and in its first 288 bytes has one value. -/
theorem State.SameDecodeInput.windowValue_eq {s s' : State} (h : s.SameDecodeInput s') {a n : Nat}
    (hin : a + n ≤ s.inLen.toNat) (hcap : a + n ≤ 288) : s'.windowValue a n = s.windowValue a n :=
  (State.windowValue_congr h.bytes (by omega)).symm

/-- R60 for the verdict: the gates are passed one by one, each reading only what the gates before it have found to be
in the window. -/
theorem State.SameDecodeInput.decodeVerdict_congr {s s' : State} (h : s.SameDecodeInput s') :
    decodeVerdict config s' = decodeVerdict config s := by
  have hdeclared := s.windowValue_lt 24 2
  have hprefix := s.windowValue_lt 32 1
  rw [decodeVerdict_eq, decodeVerdict_eq]
  refine ite_congr (propext (h.lt_iff (by omega))) (fun _ => rfl) fun hheader => ?_
  rw [h.windowValue_eq (a := 0) (n := 4) (by omega) (by omega),
    h.windowValue_eq (a := 24) (n := 2) (by omega) (by omega)]
  refine ite_congr rfl (fun _ => rfl) fun _ => ?_
  refine ite_congr (propext (h.lt_iff (by omega))) (fun _ => rfl) fun hbody => ?_
  refine ite_congr rfl (fun _ => rfl) fun hsize => ?_
  rw [h.windowValue_eq (a := 32) (n := 1) (by omega) (by omega)]
  refine ite_congr (propext (h.lt_iff (by omega))) (fun _ => rfl) fun hpast => ?_
  rw [State.rawHeader_congr h.bytes (by omega), h.bytes 32 (by omega),
    State.rawBytes_congr h.bytes (a := 33) (k := s.windowValue 32 1) (by omega)]

/-- An accepted packet's body has as many bytes as its length byte says (R171). -/
theorem decodeVerdict_accept_body_length {s : State} {m : Message} (h : decodeVerdict config s = .accept m) :
    m.body.length = m.pfx.toNat := by
  rw [decodeVerdict_eq] at h
  repeat' split at h
  all_goals cases h
  exact (s.rawBytes_length 33 _).trans (windowValue_one s 32)

/-- The free values drawn with a message are in no register that the HOST reads (R102, R36). -/
theorem Results.success_sameResults {m : Message} (hlen : m.body.length = m.pfx.toNat) (d d' : Nat) :
    SameResults (.success m d) (.success m d') := by
  intro x
  cases x with
  | bData i => exact (readReg_success_bData hlen d i).trans (readReg_success_bData hlen d' i).symm
  | _ => rfl

/-- R60 for a whole DECODE. -/
theorem State.SameDecodeInput.sameResults {s s' : State} (h : s.SameDecodeInput s') :
    ∃ t t', exec .decode s = .next t ∧ exec .decode s' = .next t' ∧ SameResults t.res t'.res := by
  obtain ⟨m, hm, ht⟩ | ⟨e, he, ht⟩ := execDecode_cases s
  · exact ⟨_, _, ht, exec_decode_of_accept (h.decodeVerdict_congr.trans hm),
      Results.success_sameResults (decodeVerdict_accept_body_length hm) _ _⟩
  · exact ⟨_, _, ht, exec_decode_of_raise (h.decodeVerdict_congr.trans he),
      (showsError e _).sameResults (showsError e _)⟩

end Sys2Proof.Machine
end

section
/-! SUPPORT. The HOST's LOAD (spec/30_encoding.md R90): the window it presents, byte for byte. -/

namespace Sys2Proof.Machine

/-- In IDLE with nothing for the block to do, a step is the script's next operation (R90). -/
theorem step_script {s : State} {o : HostOp} {rest : List HostOp} (hp : s.phase = 0) (hs : s.start = false)
    (hq : s.primReq = none) (hscript : s.script = o :: rest) : step s = hostExec o { s with script := rest } := by
  rw [step_host hp hs hq, hostStep, hscript]

/-- A byte that the window gives is the one stored there (R51). -/
theorem State.read_of_byteAt {s : State} {a : Nat} {b : Byte} (h : s.byteAt a = some b) :
    Memory.read s.inBuf a = b := by
  unfold State.byteAt at h
  split at h <;> cases h
  rfl

/-- The state with these bytes as its window. -/
def State.loaded (bytes : List Byte) (s : State) : State :=
  { s with inBuf := Memory.writeBytes [] 0 bytes, inLen := BitVec.ofNat 32 bytes.length }

theorem hostExec_load {bytes : List Byte} (h : bytes.length < 2 ^ 32) (s : State) :
    hostExec (.load bytes) s = .next (s.loaded bytes) := by
  simp only [hostExec, hostLoad, present, Nat.zero_add, if_pos h, State.loaded]

theorem State.loaded_inLen {bytes : List Byte} (h : bytes.length < 2 ^ 32) (s : State) :
    (s.loaded bytes).inLen.toNat = bytes.length :=
  (BitVec.toNat_ofNat _ _).trans (Nat.mod_eq_of_lt h)

theorem State.loaded_read {bytes : List Byte} (h : bytes.length < 2 ^ 32) (s : State) {i : Nat}
    (hi : i < bytes.length) : Memory.read (s.loaded bytes).inBuf i = bytes[i] := by
  simpa [State.loaded] using Memory.read_writeBytes (m := []) rfl (a := 0) (by omega) hi

/-- To a DECODE the loaded window is any window of just those bytes (R61, R64). -/
theorem State.loaded_sameDecodeInput {bytes : List Byte} (h : bytes.length < 2 ^ 32) (s : State) {v : State}
    (hlen : v.inLen.toNat = bytes.length) (hbytes : ∀ i (hi : i < bytes.length), v.byteAt i = some bytes[i]) :
    (s.loaded bytes).SameDecodeInput v where
  inLen := by rw [hlen, s.loaded_inLen h]
  bytes i hi := by
    have hin : i < bytes.length := by
      rw [s.loaded_inLen h] at hi
      omega
    rw [s.loaded_read h hin, State.read_of_byteAt (hbytes i hin)]

end Sys2Proof.Machine
end

section
/-! SUPPORT. The model faults (spec/20_memory.md R51, R53; spec/60_exceptions.md R210): which operation, which HOST move
and which phase can raise one. -/

namespace Sys2Proof.Machine

theorem primResult_fault {v : Option Int} {s : State} {r : Fault} (h : primResult v s = .fault r) :
    r = .outOfWindow := by
  cases v <;> cases h
  rfl

theorem gate_ne_fault (b : Bool) (e : ErrorKind) (p : BitVec 4) (s : State) (r : Fault) :
    gate b e p s ≠ .fault r := by
  cases b <;> exact nofun

/-- PREFIX_READ raises where the byte at 32 is not in the window, so its read never leaves the window (R53). -/
theorem execPrefixRead_ne_fault (s : State) (r : Fault) : execPrefixRead s ≠ .fault r := by
  rw [execPrefixRead, prefixRead]
  by_cases hmissing : prefixMissing config s = true
  · rw [if_pos hmissing]
    exact nofun
  · have hin : ¬ s.inLen.toNat < 33 := mt (prefixMissing_iff s).2 hmissing
    rw [if_neg hmissing, config_hdrLen, State.leU8_inside (by omega)]
    exact nofun

/-- BODY_EXTRACT raises where the body is not in the window, so its reads never leave the window (R53). -/
theorem execBodyExtract_ne_fault (s : State) (r : Fault) : execBodyExtract s ≠ .fault r := by
  rw [execBodyExtract]
  by_cases hpast : bodyPastWindow config s s.tx.pfx = true
  · rw [if_pos hpast]
    exact nofun
  · have hin : ¬ s.inLen.toNat < 33 + s.tx.pfx.toNat := mt (bodyPastWindow_iff s _).2 hpast
    rw [if_neg hpast, config_hdrLen, State.readBytes_inside (by omega)]
    exact nofun

/-- An operation's only fault is OutOfWindow, of DESER_HEADER without a whole header in the window or of a primitive. -/
theorem exec_fault {i : Instr} {s : State} {r : Fault} (h : exec i s = .fault r) :
    r = .outOfWindow ∧ ((i = .deserHeader ∧ s.inLen.toNat < 32) ∨ i.format = .prim) := by
  cases i with
  | leU8 a | leU16 a | leU32 a | leS32 a => exact ⟨primResult_fault h, .inr rfl⟩
  | deserHeader =>
    by_cases hlen : s.inLen.toNat < 32
    · simp only [exec, execDeserHeader] at h
      split at h <;> cases h
      exact ⟨rfl, .inl ⟨rfl, hlen⟩⟩
    · simp [exec, execDeserHeader, State.deserHeader_inside (Nat.le_of_not_lt hlen)] at h
  | decode =>
    obtain ⟨t, ht, -⟩ := execDecode_resultUpdate s
    cases ht.symm.trans h
  | hdrAvailCheck | bodyAvailCheck | sizeCheck => exact absurd h (gate_ne_fault _ _ _ s r)
  | magicCheck =>
    simp only [exec, execMagicCheck] at h
    split at h <;> cases h
  | prefixRead => exact absurd h (execPrefixRead_ne_fault s r)
  | bodyExtract => exact absurd h (execBodyExtract_ne_fault s r)
  | _ => cases h

theorem decodePrim_format (sel : BitVec 2) (a : Word) : (decodePrim sel a).format = .prim := by
  unfold decodePrim
  split <;> rfl

/-- What the phase register selects is no primitive, and DESER_HEADER in phase DESER alone (R85). -/
theorem decodePhase_ok {p : BitVec 4} {k : Nat} {i : Instr} (h : decodePhase p k = .ok i) :
    i.format = .phase ∧ (i = .deserHeader → p.toNat = 2) := by
  unfold decodePhase at h
  repeat' split at h
  all_goals cases h
  all_goals simp_all [Instr.format]

/-- The HOST's only fault is an EXPECT that does not hold (log 14). -/
theorem hostExec_fault {o : HostOp} {s : State} {r : Fault} (h : hostExec o s = .fault r) : r = .expectFailed := by
  cases o with
  | load bytes | append bytes =>
    simp only [hostExec, hostLoad, hostAppend, present] at h
    split at h <;> cases h
  | decode =>
    obtain ⟨t, ht, -⟩ := execDecode_resultUpdate { s with start := true }
    cases ht.symm.trans h
  | advance =>
    simp only [hostExec, hostAdvance] at h
    repeat' split at h
    all_goals cases h
  | drop | reset => cases h
  | expect x v =>
    simp only [hostExec, hostExpect] at h
    repeat' split at h
    all_goals cases h
    rfl

theorem hostStep_fault {s : State} {r : Fault} (h : hostStep s = .fault r) : r = .expectFailed := by
  unfold hostStep at h
  split at h
  · cases h
  · exact hostExec_fault h

/-- Under the invariant no phase of a transaction faults: PHASE is not reserved, and in DESER the header is in the
window (R53, R150, R151). -/
theorem State.Inv.step_ne_fault_of_phase {s : State} (hinv : s.Inv) (hp : s.phase ≠ 0) (r : Fault) :
    step s ≠ .fault r := by
  intro h
  have hmax := hinv.phase
  have hpos : 1 ≤ s.phase.toNat := by
    have : s.phase.toNat ≠ 0 := fun h0 => hp (BitVec.eq_of_toNat_eq h0)
    omega
  obtain ⟨i, hi⟩ | ⟨hreserved, -⟩ := decodePhase_finish s.finish s.phase hpos
  · rw [step_phase hp, hi] at h
    obtain ⟨hformat, hdeser⟩ := decodePhase_ok hi
    obtain ⟨-, ⟨rfl, hshort⟩ | hprim⟩ := exec_fault h
    · have hphase := hdeser rfl
      have := hinv.header (by omega) (by omega)
      omega
    · cases hformat.symm.trans hprim
  · omega

end Sys2Proof.Machine
end

section
/-! The statements of spec/20_memory.md. -/

namespace Sys2Proof.Machine

/-- Settles O6: a transaction's phases do not fault under the invariant, and in IDLE DECODE completes, a lone primitive
can only be OutOfWindow and the HOST's move can only fail an EXPECT. -/
theorem invariantExcludesTheBlocksModelFaults : Obligations.InvariantExcludesTheBlocksModelFaults := by
  intro s hinv
  by_cases hp : s.phase = 0
  swap
  · exact ⟨hinv.step_ne_fault_of_phase hp _, fun h => absurd h (hinv.step_ne_fault_of_phase hp _)⟩
  cases hs : s.start with
  | true =>
    obtain ⟨t, ht, -⟩ := execDecode_resultUpdate s
    rw [step_start hp hs, ht]
    exact ⟨nofun, nofun⟩
  | false =>
    cases hq : s.primReq with
    | some q =>
      rw [step_prim hp hs hq]
      exact ⟨fun h => absurd (exec_fault h).1 nofun, fun _ => ⟨hp, rfl, nofun⟩⟩
    | none =>
      rw [step_host hp hs hq]
      exact ⟨fun h => absurd (hostStep_fault h) nofun, fun h => absurd (hostStep_fault h) nofun⟩

/-- Settles O12: a read of n bytes gives their sum where the last of them is in the window, and nothing where it is
not. -/
theorem memReadIsTheLittleEndianSum : Obligations.MemReadIsTheLittleEndianSum := by
  intro s a n hn
  refine ⟨State.memRead_inside, fun hout => ?_⟩
  rw [State.memRead_eq, if_neg (by omega)]

/-- Settles O27: the verdict is a message or an error, and the write of either ends the transaction with the ports as
they were. -/
theorem everyDecodeCompletes : Obligations.EveryDecodeCompletes := by
  intro s
  obtain ⟨m, -, ht⟩ | ⟨e, -, ht⟩ := execDecode_cases s
  · exact ⟨_, ht, rfl, rfl, (ResultUpdate.decodeSuccess m).samePorts, rfl, rfl, rfl⟩
  · exact ⟨_, ht, rfl, rfl, (ResultUpdate.decodeError e).samePorts, rfl, rfl, rfl⟩

/-- Settles O30: the two windows have one verdict, and one verdict shows one result. -/
theorem decodeDependsOnTheWindowOnly : Obligations.DecodeDependsOnTheWindowOnly :=
  fun _ _ hlen hbytes => State.SameDecodeInput.sameResults ⟨hlen, hbytes⟩

/-- Settles O31: the first DECODE leaves the window, so the second has the same input. -/
theorem decodeIsIdempotent : Obligations.DecodeIsIdempotent := by
  intro s
  obtain ⟨t, ht, -⟩ := execDecode_resultUpdate s
  obtain ⟨hbuf, hlen⟩ := exec_window_eq ht
  have hsame : s.SameDecodeInput t := ⟨by rw [hlen], fun a _ => by rw [hbuf]⟩
  obtain ⟨t', u, ht', hu, hres⟩ := hsame.sameResults
  cases ht.symm.trans ht'
  exact ⟨t, u, ht, hu, hres⟩

/-- Settles O43: an operation that goes on has the window it began with. -/
theorem noOperationWritesTheWindow : Obligations.NoOperationWritesTheWindow := by
  intro i s t h
  obtain ⟨hbuf, hlen⟩ := exec_window_eq h
  exact ⟨hlen, fun a => by rw [hbuf], fun a => by rw [State.byteAt, State.byteAt, hbuf, hlen]⟩

/-- Settles O50: the first step is the LOAD, the second the HOST's DECODE of the loaded window, and any window of just
those bytes is the same input to DECODE. -/
theorem loadThenDecodeSeesTheLoadedWindow : Obligations.LoadThenDecodeSeesTheLoadedWindow := by
  intro s bytes rest hp hs hq hscript hlen
  have hload : step s = .next (State.loaded bytes { s with script := .decode :: rest }) :=
    (step_script hp hs hq hscript).trans (hostExec_load hlen _)
  obtain ⟨t, ht, hresult⟩ := execDecode_resultUpdate (.loaded bytes { s with script := rest, start := true })
  have hdecode : step (State.loaded bytes { s with script := .decode :: rest }) = .next t :=
    (step_script (s := .loaded bytes { s with script := .decode :: rest }) hp hs hq rfl).trans ht
  obtain ⟨-, -, -, hrest, -⟩ := hresult.samePorts
  refine ⟨t, (run_next hload).trans (run_next hdecode), hrest, hresult.phase_eq, fun v hv hbytes => ?_⟩
  obtain ⟨t', x, ht', hx, hres⟩ := (State.loaded_sameDecodeInput hlen _ hv hbytes).sameResults
  cases ht.symm.trans ht'
  exact ⟨x, hx, hres⟩

end Sys2Proof.Machine
end

section
/-! SUPPORT. The decoder read backwards (spec/30_encoding.md R82, R84 to R86, R88): what each code space's own decoder
can answer, which instructions have a static check, and which bytes a 32-bit word was taken from. -/

namespace Sys2Proof

/-- The bytes of a number are got back from the number and how many they were (R54, R81). -/
theorem leBytes_leValue (bs : List Byte) : leBytes bs.length (leValue bs) = bs := by
  induction bs with
  | nil => rfl
  | cons b bs ih =>
    have hb := b.isLt
    have hfirst : BitVec.ofNat 8 (b.toNat + 256 * leValue bs) = b := by
      apply BitVec.eq_of_toNat_eq
      rw [BitVec.toNat_ofNat]
      omega
    have hrest : (b.toNat + 256 * leValue bs) / 256 = leValue bs := by omega
    rw [List.length_cons, leValue, leBytes, hfirst, hrest, ih]

/-- A word taken off the front was its four bytes. -/
theorem takeWord_eq_some {bs rest : List Byte} {w : Word} (h : takeWord bs = some (w, rest)) :
    bs = leBytes 4 w.toNat ++ rest := by
  unfold takeWord at h
  split at h <;> cases h
  next b0 b1 b2 b3 =>
    have hlt : leValue [b0, b1, b2, b3] < 2 ^ 32 := (leValue_lt _).trans_eq (show 256 ^ 4 = 2 ^ 32 by norm_num)
    have hword : (BitVec.ofNat 32 (leValue [b0, b1, b2, b3])).toNat = leValue [b0, b1, b2, b3] :=
      (BitVec.toNat_ofNat _ _).trans (Nat.mod_eq_of_lt hlt)
    rw [hword]
    exact (congrArg (· ++ rest) (leBytes_leValue [b0, b1, b2, b3])).symm

/-- The one static check is the residual row's (R84, R173). -/
theorem wellFormed_cmdUnknown {c : Word} :
    WellFormed (.cmdUnknown c) ↔ c ≠ config.cmdHeartbeat ∧ c ≠ config.cmdEcho := by
  simp [WellFormed, Instr.wellFormed]

theorem wellFormed_of_format_ne_command {i : Instr} (h : i.format ≠ .command) : WellFormed i := by
  cases i with
  | cmdUnknown c => exact absurd rfl h
  | _ => rfl

theorem decodeReq_ok {b : Byte} {i : Instr} (h : decodeReq b = .ok i) : i = .decode := by
  unfold decodeReq at h
  split at h <;> cases h
  rfl

theorem decodeMagic_ok {m : Word} {i : Instr} (h : decodeMagic m = .ok i) : m = config.magic ∧ i = .pktMagic := by
  unfold decodeMagic at h
  split at h <;> cases h
  exact ⟨‹_›, rfl⟩

/-- A command that is neither heartbeat nor echo is the residual row's (R173). -/
theorem decodeCommand_of_wellFormed {c : Word} (h : WellFormed (.cmdUnknown c)) :
    decodeCommand c = .cmdUnknown c := by
  obtain ⟨hheartbeat, hecho⟩ := wellFormed_cmdUnknown.1 h
  rw [decodeCommand, if_neg hheartbeat, if_neg hecho]

/-- Every command value is a well-formed instruction of the command space: the residual row is reached only by its own
commands (R84). -/
theorem decodeCommand_sound (c : Word) : WellFormed (decodeCommand c) ∧ (decodeCommand c).format = .command := by
  unfold decodeCommand
  split
  · exact ⟨rfl, rfl⟩
  · split
    · exact ⟨rfl, rfl⟩
    · exact ⟨wellFormed_cmdUnknown.2 ⟨‹_›, ‹_›⟩, rfl⟩

/-- The bytes after the word are handed back by every code space as they are. -/
theorem map_rest_eq_ok {x : Except Reject Instr} {i : Instr} {rest rest' : List Byte} :
    x.map (·, rest) = .ok (i, rest') ↔ x = .ok i ∧ rest = rest' := by
  cases x <;> simp [Except.map]

/-- A first byte under its code's mask is the code, whatever bytes the model adds after it (R85, R86). -/
theorem leValue_cons_and_low {k : Nat} (hk : k ≤ 8) (b : Byte) (bs : List Byte) :
    leValue (b :: bs) &&& (2 ^ k - 1) = b.toNat % 2 ^ k := by
  have hdvd : 2 ^ k ∣ 256 * leValue bs := Dvd.dvd.mul_right (Nat.pow_dvd_pow 2 hk) _
  rw [leValue, Nat.and_two_pow_sub_one_eq_mod, Nat.add_mod, Nat.mod_eq_zero_of_dvd hdvd, Nat.add_zero, Nat.mod_mod]

end Sys2Proof
end

section
/-! SUPPORT. What a step is in each phase (spec/30_encoding.md R85, R88), and what the packet's discriminators are as
operations. -/

namespace Sys2Proof.Machine

/-- In a phase that selects an operation, a step is that operation. -/
theorem step_of_phase {s : State} {p : BitVec 4} {i : Instr} (h : s.phase = p) (hp : p ≠ 0)
    (hi : decodePhase p s.finish.index.toNat = .ok i) : step s = exec i s := by
  subst h
  rw [step_phase hp, hi]

/-- The codes from 10 on are reserved (R85). -/
theorem decodePhase_reserved {p : BitVec 4} (h : 10 ≤ p.toNat) (k : Nat) :
    decodePhase p k = .error .reservedPhase := by
  obtain ⟨n, hn⟩ := Nat.exists_eq_add_of_le' h
  unfold decodePhase
  rw [hn]
  rfl

theorem step_of_reserved_phase {s : State} (h : 10 ≤ s.phase.toNat) : step s = .fault .badPhase := by
  have hp : s.phase ≠ 0 := fun h0 => by simp [h0] at h
  rw [step_phase hp, decodePhase_reserved h]
  rfl

/-- A header whose magic field is PKT_MAGIC passes the gate (R88, R140). -/
theorem exec_magicCheck_of_pktMagic {s : State} (h : decodeMagic s.tx.header.magic = .ok .pktMagic) :
    exec .magicCheck s = exec .pktMagic s := by
  have hmagic : magicOk config s.tx.header = true := beq_iff_eq.2 (decodeMagic_ok h).1
  exact if_pos hmagic

/-- A command's row gives the command's class (R88, R173). -/
theorem exec_decodeCommand (c : Word) (s : State) :
    exec (decodeCommand c) s = .next (s.takeClass (classify config c)) := by
  unfold decodeCommand classify
  split
  · rfl
  · split <;> rfl

theorem exec_cmdClassify (s : State) : exec .cmdClassify s = exec (decodeCommand s.tx.header.command) s :=
  (exec_decodeCommand _ s).symm

end Sys2Proof.Machine
end

section
/-! SUPPORT. The HOST's APPEND and its ADVANCE after a result (spec/30_encoding.md R90), by the window each presents. -/

namespace Sys2Proof.Machine

theorem State.byteAt_inside {s : State} {a : Nat} (h : a < s.inLen.toNat) :
    s.byteAt a = some (Memory.read s.inBuf a) :=
  if_pos h

/-- The state with these bytes behind its window. -/
def State.appended (bytes : List Byte) (s : State) : State :=
  { s with
    inBuf := Memory.writeBytes s.inBuf s.inLen.toNat bytes
    inLen := BitVec.ofNat 32 (s.inLen.toNat + bytes.length) }

section Appended
variable {bytes : List Byte} {s : State}

theorem hostExec_append (h : s.inLen.toNat + bytes.length < 2 ^ 32) :
    hostExec (.append bytes) s = .next (s.appended bytes) := by
  simp only [hostExec, hostAppend, present, if_pos h, State.appended]

theorem State.appended_inLen (h : s.inLen.toNat + bytes.length < 2 ^ 32) :
    (s.appended bytes).inLen.toNat = s.inLen.toNat + bytes.length :=
  (BitVec.toNat_ofNat _ _).trans (Nat.mod_eq_of_lt h)

theorem State.appended_byteAt_old (hw : Memory.wf s.inBuf = true) (h : s.inLen.toNat + bytes.length < 2 ^ 32) {a : Nat}
    (ha : a < s.inLen.toNat) : (s.appended bytes).byteAt a = s.byteAt a := by
  have hlen := State.appended_inLen h
  rw [State.byteAt_inside (by omega), State.byteAt_inside ha]
  exact congrArg some (Memory.read_writeBytes_outside hw (by omega) (.inl ha))

theorem State.appended_byteAt_new (hw : Memory.wf s.inBuf = true) (h : s.inLen.toNat + bytes.length < 2 ^ 32) {i : Nat}
    (hi : i < bytes.length) : (s.appended bytes).byteAt (s.inLen.toNat + i) = some bytes[i] := by
  have hlen := State.appended_inLen h
  rw [State.byteAt_inside (by omega)]
  exact congrArg some (Memory.read_writeBytes hw (by omega) hi)

end Appended

theorem State.loaded_byteAt {bytes : List Byte} (h : bytes.length < 2 ^ 32) (s : State) {i : Nat}
    (hi : i < bytes.length) : (s.loaded bytes).byteAt i = some bytes[i] := by
  have hlen := s.loaded_inLen h
  rw [State.byteAt_inside (by omega), s.loaded_read h hi]

theorem hostExec_advance_inside {s : State} (h : s.res.resValid = true)
    (hin : s.res.resConsumed.toNat ≤ s.inLen.toNat) :
    hostExec .advance s = .next (s.dropWindow s.res.resConsumed) := by
  simp only [hostExec, hostAdvance, h, Bool.not_true, Bool.false_eq_true, if_false, if_pos hin]

theorem hostExec_advance_past {s : State} (h : s.res.resValid = true)
    (hpast : s.inLen.toNat < s.res.resConsumed.toNat) :
    hostExec .advance s = .next (s.dropPastWindow s.res.resConsumed) := by
  simp only [hostExec, hostAdvance, h, Bool.not_true, Bool.false_eq_true, if_false, if_neg (Nat.not_le_of_lt hpast)]

end Sys2Proof.Machine
end

section
/-! SUPPORT. Scripts of packet lines (spec/30_encoding.md R90, R91; Safety.lean `isPacketLine`): each line runs through,
one step an operation, and gives the turn back to the HOST with the rest of its script. -/

namespace Sys2Proof.Machine

theorem coreRun_add (M : Host.Core) {j : Nat} (k : Nat) {s t : M.State} (h : M.run j s = .next t) :
    M.run (j + k) s = M.run k t := by
  induction j generalizing s with
  | zero =>
    cases h
    rw [Nat.zero_add]
  | succ j ih =>
    cases hstep : M.step s with
    | next u =>
      rw [coreRun_next M hstep] at h
      rw [Nat.add_right_comm, coreRun_next M hstep, ih h]
    | fault r | refused r => simp [Host.Core.run, hstep] at h

/-- Nothing is under way in the block, so a step is the HOST's move (R20). -/
structure State.HostsTurn (s : State) : Prop where
  idle : s.phase = 0
  noStart : s.start = false
  noPrimitive : s.primReq = none

/-- From s it comes to t, the HOST's turn again, its script and the record of ReadInvalid as they were. -/
structure State.GoesOnTo (s t : State) : Prop where
  turn : t.HostsTurn
  script : t.script = s.script
  readInvalid : t.readInvalid = s.readInvalid

theorem State.HostsTurn.withScript {s : State} (h : s.HostsTurn) (ops : List HostOp) :
    State.HostsTurn { s with script := ops } :=
  ⟨h.idle, h.noStart, h.noPrimitive⟩

theorem hostExec_load_goesOn {s : State} (h : s.HostsTurn) {bytes : List Byte} (hlen : bytes.length < 2 ^ 32) :
    ∃ t, hostExec (.load bytes) s = .next t ∧ s.GoesOnTo t :=
  ⟨_, hostExec_load hlen s, ⟨h.idle, h.noStart, h.noPrimitive⟩, rfl, rfl⟩

theorem hostExec_drop_goesOn {s : State} (h : s.HostsTurn) :
    ∃ t, hostExec .drop s = .next t ∧ s.GoesOnTo t :=
  ⟨_, rfl, ⟨h.idle, h.noStart, h.noPrimitive⟩, rfl, rfl⟩

theorem hostExec_reset_goesOn (s : State) : ∃ t, hostExec .reset s = .next t ∧ s.GoesOnTo t :=
  ⟨_, rfl, ⟨rfl, rfl, rfl⟩, rfl, rfl⟩

/-- The HOST's DECODE completes with a result whatever the window holds, and takes its START away (R24, R100; log 3). -/
theorem hostExec_decode_goesOn {s : State} (h : s.HostsTurn) :
    ∃ t, hostExec .decode s = .next t ∧ s.GoesOnTo t ∧ t.res.resValid = true := by
  obtain ⟨m, -, ht⟩ | ⟨e, -, ht⟩ := execDecode_cases { s with start := true }
  · exact ⟨_, ht, ⟨⟨rfl, rfl, h.noPrimitive⟩, rfl, rfl⟩, rfl⟩
  · exact ⟨_, ht, ⟨⟨rfl, rfl, h.noPrimitive⟩, rfl, rfl⟩, rfl⟩

/-- With a result an ADVANCE completes, in the window and past its end, and records nothing (R236; log 15). -/
theorem hostExec_advance_goesOn {s : State} (h : s.HostsTurn) (hvalid : s.res.resValid = true) :
    ∃ t, hostExec .advance s = .next t ∧ s.GoesOnTo t := by
  obtain hpast | hin := Nat.lt_or_ge s.inLen.toNat s.res.resConsumed.toNat
  · exact ⟨_, hostExec_advance_past hvalid hpast, ⟨h.idle, h.noStart, h.noPrimitive⟩, rfl, rfl⟩
  · exact ⟨_, hostExec_advance_inside hvalid hin, ⟨h.idle, h.noStart, h.noPrimitive⟩, rfl, rfl⟩

/-- An operation that is a packet line of its own goes on. -/
theorem hostExec_packetOp_goesOn {o : HostOp} (ho : (HostLine.op o).isPacketLine) {s : State} (h : s.HostsTurn) :
    ∃ t, hostExec o s = .next t ∧ s.GoesOnTo t := by
  cases o with
  | load bytes => exact hostExec_load_goesOn h ho
  | decode =>
    obtain ⟨t, ht, hgoes, -⟩ := hostExec_decode_goesOn h
    exact ⟨t, ht, hgoes⟩
  | drop => exact hostExec_drop_goesOn h
  | reset => exact hostExec_reset_goesOn s
  | append bytes | advance | expect r v => exact ho.elim

/-- On the HOST's turn a step is the next operation of its script. -/
theorem State.HostsTurn.step {s : State} (h : s.HostsTurn) {o : HostOp} {rest : List HostOp}
    (hscript : s.script = o :: rest) : step s = hostExec o { s with script := rest } :=
  step_script h.idle h.noStart h.noPrimitive hscript

/-- An operation that goes on is one step of the run. -/
theorem State.HostsTurn.run_one {s t : State} (h : s.HostsTurn) {o : HostOp} {rest : List HostOp}
    (hscript : s.script = o :: rest) (ht : hostExec o { s with script := rest } = .next t) :
    Host.Core.run core 1 s = .next t :=
  run_next ((h.step hscript).trans ht)

/-- A packet line runs through, one step an operation. -/
theorem run_packetLine {l : HostLine} (hl : l.isPacketLine) {s : State} (h : s.HostsTurn) {rest : List HostOp}
    (hscript : s.script = l.expand ++ rest) :
    ∃ t, Host.Core.run core l.expand.length s = .next t ∧ State.GoesOnTo { s with script := rest } t := by
  cases l with
  | op o =>
    obtain ⟨t, ht, hgoes⟩ := hostExec_packetOp_goesOn hl (h.withScript rest)
    exact ⟨t, h.run_one hscript ht, hgoes⟩
  | nextPacket =>
    obtain ⟨u, hu, hdecode, hvalid⟩ := hostExec_decode_goesOn (h.withScript (.advance :: rest))
    obtain ⟨t, ht, hadvance⟩ := hostExec_advance_goesOn (hdecode.turn.withScript rest) hvalid
    have hfirst := h.run_one hscript hu
    have hsecond := hdecode.turn.run_one hdecode.script ht
    exact ⟨t, (coreRun_add core 1 hfirst).trans hsecond, hadvance.turn, hadvance.script,
      hadvance.readInvalid.trans hdecode.readInvalid⟩
  | feed bytes => exact hl.elim

/-- A script of packet lines runs to its end. -/
theorem run_packetLines {lines : List HostLine} (hlines : ∀ l ∈ lines, l.isPacketLine) {s : State} (h : s.HostsTurn)
    (hscript : s.script = expandScript lines) :
    ∃ t, Host.Core.run core (expandScript lines).length s = .next t ∧ State.GoesOnTo { s with script := [] } t := by
  induction lines generalizing s with
  | nil => exact ⟨s, rfl, h, hscript, rfl⟩
  | cons l lines ih =>
    rw [List.forall_mem_cons] at hlines
    obtain ⟨hl, hlines⟩ := hlines
    obtain ⟨u, hu, hline⟩ := run_packetLine hl h hscript
    obtain ⟨t, ht, hgoes⟩ := ih hlines hline.turn hline.script
    rw [expandScript, List.length_append]
    exact ⟨t, (coreRun_add core _ hu).trans ht, hgoes.turn, hgoes.script,
      hgoes.readInvalid.trans hline.readInvalid⟩

end Sys2Proof.Machine
end

section
/-! The statements of spec/30_encoding.md. -/

namespace Sys2Proof.Machine

/-- Settles O52: each code space's decoder, given the bytes that the instruction's own row of the encoding writes, reads
the instruction back. The check of the residual row keeps its commands from being read as another row's. -/
theorem decodeOfEncodeIsTheInstruction : Obligations.DecodeOfEncodeIsTheInstruction := by
  intro i rest hwf
  cases i with
  | decode => exact decode_req 1 rest
  | hdrAvailCheck => exact decode_phase 1 0 rest
  | deserHeader => exact decode_phase 2 0 rest
  | magicCheck => exact decode_phase 3 0 rest
  | bodyAvailCheck => exact decode_phase 4 0 rest
  | sizeCheck => exact decode_phase 5 0 rest
  | prefixRead => exact decode_phase 6 0 rest
  | bodyExtract => exact decode_phase 7 0 rest
  | consumedCalc => exact decode_phase 8 0 rest
  | cmdClassify => exact decode_phase 8 1 rest
  | successWrite => exact decode_phase 8 2 rest
  | errorWrite => exact decode_phase 9 0 rest
  | leU8 a => exact decode_prim 0 a rest
  | leU16 a => exact decode_prim 1 a rest
  | leU32 a => exact decode_prim 2 a rest
  | leS32 a => exact decode_prim 3 a rest
  | pktMagic => exact decode_magic config.magic rest
  | cmdHeartbeat => exact decode_command config.cmdHeartbeat rest
  | cmdEcho => exact decode_command config.cmdEcho rest
  | cmdUnknown c =>
    have hdecode := decode_command c rest
    rwa [decodeCommand_of_wellFormed hwf] at hdecode

/-- Settles O48: the three moves by the windows they present. -/
theorem hostPresentsTheWindow : Obligations.HostPresentsTheWindow := by
  refine ⟨fun s bytes h => ?_, fun s bytes hw h => ?_, fun s => ?_⟩
  · exact ⟨_, hostExec_load h s, rfl, s.loaded_inLen h, fun _ => s.loaded_byteAt h⟩
  · exact ⟨_, hostExec_append h, rfl, State.appended_inLen h, fun _ => State.appended_byteAt_old hw h,
      fun _ => State.appended_byteAt_new hw h⟩
  · exact ⟨_, rfl, rfl, fun a => if_neg (Nat.not_lt_zero a)⟩

/-- Settles O49: with a result an ADVANCE drops the consumed bytes, in the window and past its end, and under the
invariant an error has consumed none. -/
theorem advanceDropsTheConsumedBytes : Obligations.AdvanceDropsTheConsumedBytes := by
  refine ⟨fun s hvalid hin => ?_, fun s hvalid hpast => ?_, fun s hinv hvalid herror => ?_⟩
  · obtain ⟨hlen, hbytes⟩ := State.dropWindow_window hin
    exact ⟨_, hostExec_advance_inside hvalid hin, rfl, hlen, hbytes⟩
  · exact ⟨_, hostExec_advance_past hvalid hpast, rfl, Memory.read_dropFront _ _⟩
  · have hstatus : s.res.resStatus ≠ 0 := fun h0 => herror (readReg_resStatus_eq_zero.2 ⟨hvalid, h0⟩)
    have hnone : s.res.resConsumed = 0 := hinv.errorConsumed hvalid hstatus
    have hin : s.res.resConsumed.toNat ≤ s.inLen.toNat := by simp [hnone]
    obtain ⟨-, hbytes⟩ := State.dropWindow_window hin
    exact ⟨_, hostExec_advance_inside hvalid hin, by simp [hnone], fun a => (hbytes a).trans (by simp [hnone])⟩

/-- Settles O51: each line gives the turn back to the HOST, so the lines run one after the other. -/
theorem packetScriptsNeverStop : Obligations.PacketScriptsNeverStop := by
  intro s lines hidle hstart hprim hscript hlines
  obtain ⟨t, ht, hgoes⟩ := run_packetLines hlines ⟨hidle, hstart, hprim⟩ hscript
  exact ⟨⟨t, ht, hgoes.script, hgoes.turn.idle, hgoes.readInvalid⟩,
    fun hnone => ⟨t, ht, hgoes.readInvalid.trans hnone⟩⟩

/-- Settles O53: space by space, what its decoder can answer and how many bytes the word had. -/
theorem decodedInstructionsAreWellFormed : Obligations.DecodedInstructionsAreWellFormed := by
  intro f bytes i rest h
  cases f with
  | req =>
    obtain _ | ⟨b, tail⟩ := bytes
    · cases h
    rw [decode_req, map_rest_eq_ok] at h
    obtain ⟨hi, rfl⟩ := h
    obtain rfl := decodeReq_ok hi
    exact ⟨rfl, rfl, Nat.add_comm _ _⟩
  | phase =>
    obtain _ | ⟨c, _ | ⟨k, tail⟩⟩ := bytes
    · cases h
    · cases h
    rw [decode_phase, map_rest_eq_ok] at h
    obtain ⟨hi, rfl⟩ := h
    obtain ⟨hformat, -⟩ := decodePhase_ok hi
    exact ⟨wellFormed_of_format_ne_command (by rw [hformat]; decide), hformat,
      by simp only [List.length_cons, Format.size]; omega⟩
  | prim =>
    obtain _ | ⟨sel, tail⟩ := bytes
    · cases h
    cases hw : takeWord tail with
    | none => simp [decode, hw] at h
    | some p =>
      obtain ⟨a, rest'⟩ := p
      obtain rfl := takeWord_eq_some hw
      rw [decode_prim] at h
      cases h
      have hformat := decodePrim_format (sel.setWidth 2) a
      exact ⟨wellFormed_of_format_ne_command (by rw [hformat]; decide), hformat,
        by simp only [List.length_cons, List.length_append, leBytes_length, Format.size]; omega⟩
  | magic =>
    cases hw : takeWord bytes with
    | none => simp [decode, hw] at h
    | some p =>
      obtain ⟨m, rest'⟩ := p
      obtain rfl := takeWord_eq_some hw
      rw [decode_magic, map_rest_eq_ok] at h
      obtain ⟨hi, rfl⟩ := h
      obtain ⟨-, rfl⟩ := decodeMagic_ok hi
      exact ⟨rfl, rfl, by simp [Format.size]⟩
  | command =>
    cases hw : takeWord bytes with
    | none => simp [decode, hw] at h
    | some p =>
      obtain ⟨c, rest'⟩ := p
      obtain rfl := takeWord_eq_some hw
      rw [decode_command] at h
      cases h
      obtain ⟨hwf, hformat⟩ := decodeCommand_sound c
      exact ⟨hwf, hformat, by simp [Format.size]⟩

/-- Settles O54: the words of fixed bytes are compared as they stand; a primitive's mask sees the select code and none of
the offset, and the residual row's mask is empty. -/
theorem encodedWordsMatchTheOpcodeTable : Obligations.EncodedWordsMatchTheOpcodeTable := by
  intro i
  cases i with
  | leU8 a => exact ⟨rfl, leValue_cons_and_low (k := 2) (by decide) 0 _⟩
  | leU16 a => exact ⟨rfl, leValue_cons_and_low (k := 2) (by decide) 1 _⟩
  | leU32 a => exact ⟨rfl, leValue_cons_and_low (k := 2) (by decide) 2 _⟩
  | leS32 a => exact ⟨rfl, leValue_cons_and_low (k := 2) (by decide) 3 _⟩
  | cmdUnknown c => exact ⟨rfl, Nat.and_zero _⟩
  | _ => decide

/-- Settles O9: the phase's row of the decoder is the step; FINISH looks at its part too, and the codes from 10 on are
reserved. -/
theorem phaseSelectsItsMicroOperation : Obligations.PhaseSelectsItsMicroOperation := by
  intro s
  refine ⟨fun hp hs hq hscript => ?_, fun h => step_of_phase h (by decide) rfl,
    fun h => step_of_phase h (by decide) rfl, fun h => step_of_phase h (by decide) rfl,
    fun h => step_of_phase h (by decide) rfl, fun h => step_of_phase h (by decide) rfl,
    fun h => step_of_phase h (by decide) rfl, fun h => step_of_phase h (by decide) rfl,
    fun h hf => step_of_phase h (by decide) (by rw [hf]; rfl),
    fun h hf => step_of_phase h (by decide) (by rw [hf]; rfl),
    fun h hf => step_of_phase h (by decide) (by rw [hf]; rfl),
    fun h => step_of_phase h (by decide) rfl, step_of_reserved_phase⟩
  rw [step_host hp hs hq, hostStep, hscript]

/-- Settles O10: the phase selects the gate or the classification (O9), and that operation is the row its field decodes
to. -/
theorem discriminatorsSelectAtTheirPhase : Obligations.DiscriminatorsSelectAtTheirPhase := by
  refine ⟨fun s hphase hmagic => ?_, fun s hphase hfinish => ?_⟩
  · exact (step_of_phase hphase (by decide) rfl).trans (exec_magicCheck_of_pktMagic hmagic)
  · exact (step_of_phase hphase (by decide) (by rw [hfinish]; rfl)).trans (exec_cmdClassify s)

/-- Settles O17: the row is the gate's pass, which writes the phase alone. -/
theorem pktMagicPassesTheGate : Obligations.PktMagicPassesTheGate :=
  fun _ => rfl

/-- Settles O24: each row takes its class, and classification is the row that the command field decodes to. -/
theorem commandRowsGiveTheirClass : Obligations.CommandRowsGiveTheirClass :=
  fun s _ => ⟨rfl, rfl, rfl, exec_cmdClassify s⟩

end Sys2Proof.Machine
end

section
/-! SUPPORT. DECODE's verdict row by row (spec/40_packet_header_parser.md R101): which windows each gate stops, and that
the message of an accepted packet is read from the packet's own bytes alone. -/

namespace Sys2Proof.Machine

theorem decodeVerdict_of_headerShort {s : State} (h : s.inLen.toNat < 32) :
    decodeVerdict config s = .raise .insufficientData := by
  rw [decodeVerdict_eq, if_pos h]

theorem decodeVerdict_of_wrongMagic {s : State} (h : 32 ≤ s.inLen.toNat) (hmagic : s.windowValue 0 4 ≠ 0x20160905) :
    decodeVerdict config s = .raise .illegalMagic := by
  rw [decodeVerdict_eq, if_neg (Nat.not_lt.2 h), if_pos hmagic]

section RightMagic
variable {s : State} (h : 32 ≤ s.inLen.toNat) (hmagic : s.windowValue 0 4 = 0x20160905)
include h hmagic

theorem decodeVerdict_of_bodyShort (hbody : s.inLen.toNat < 32 + s.windowValue 24 2) :
    decodeVerdict config s = .raise .insufficientData := by
  rw [decodeVerdict_eq, if_neg (Nat.not_lt.2 h), if_neg (not_not.2 hmagic), if_pos hbody]

theorem decodeVerdict_of_oversized (hbody : 32 + s.windowValue 24 2 ≤ s.inLen.toNat)
    (hsize : s.windowValue 24 2 = 0 ∨ 256 ≤ s.windowValue 24 2) :
    decodeVerdict config s = .raise .oversizedPackage := by
  rw [decodeVerdict_eq, if_neg (Nat.not_lt.2 h), if_neg (not_not.2 hmagic), if_neg (Nat.not_lt.2 hbody), if_pos hsize]

end RightMagic

/-- The message that the window's bytes write, wherever the window ends (R100, R102). -/
def State.rawMessage (s : State) : Message :=
  assemble config s.rawHeader (Memory.read s.inBuf 32) (s.rawBytes 33 (s.windowValue 32 1))

theorem State.rawMessage_body_length (s : State) : s.rawMessage.body.length = s.rawMessage.pfx.toNat :=
  (s.rawBytes_length 33 _).trans (windowValue_one s 32)

/-- A packet is accepted exactly where every gate passes, and then its message is the window's (R100). -/
theorem decodeVerdict_accept_iff {s : State} {m : Message} :
    decodeVerdict config s = .accept m ↔
      (s.passesLengthGates ∧ 33 + s.windowValue 32 1 ≤ s.inLen.toNat) ∧ m = s.rawMessage := by
  constructor
  · intro h
    rw [decodeVerdict_eq] at h
    repeat' split at h
    all_goals cases h
    next hheader hmagic hbody hsize hpast =>
      exact ⟨⟨⟨by omega, not_not.1 hmagic, by omega, by omega, by omega⟩, by omega⟩, rfl⟩
  · rintro ⟨⟨⟨hheader, hmagic, hbody, hlow, hhigh⟩, hpast⟩, rfl⟩
    rw [decodeVerdict_eq, if_neg (by omega), if_neg (not_not.2 hmagic), if_neg (by omega), if_neg (by omega),
      if_neg (by omega)]
    rfl

/-- An accepted packet is read from the window it fills, whatever follows it (R105). -/
theorem decodeVerdict_accept_extend {s w : State} {m : Message} (h : decodeVerdict config s = .accept m)
    (hlen : s.inLen.toNat ≤ w.inLen.toNat) (hbytes : State.agreeBelow s.inLen.toNat s w) :
    decodeVerdict config w = .accept m := by
  obtain ⟨⟨⟨hheader, hmagic, hbody, hlow, hhigh⟩, hpast⟩, rfl⟩ := decodeVerdict_accept_iff.1 h
  have hfield : ∀ a n, a + n ≤ 33 → s.windowValue a n = w.windowValue a n :=
    fun a n ha => State.windowValue_congr hbytes (by omega)
  have hmessage : s.rawMessage = w.rawMessage := by
    rw [State.rawMessage, State.rawMessage, ← hfield 32 1 (by omega), State.rawHeader_congr hbytes hheader,
      hbytes 32 (by omega), State.rawBytes_congr hbytes hpast]
  rw [hfield 0 4 (by omega)] at hmagic
  rw [hfield 24 2 (by omega)] at hbody hlow hhigh
  rw [hfield 32 1 (by omega)] at hpast
  exact decodeVerdict_accept_iff.2 ⟨⟨⟨by omega, hmagic, by omega, hlow, hhigh⟩, by omega⟩, hmessage⟩

end Sys2Proof.Machine
end

section
/-! SUPPORT. What the HOST reads after a DECODE, by the verdict, and the verdict by what it reads (spec/10_state.md R25;
spec/40_packet_header_parser.md R102, R103). -/

namespace Sys2Proof.Machine

theorem showsError_of_raise {s t : State} {e : ErrorKind} (ht : exec .decode s = .next t)
    (h : decodeVerdict config s = .raise e) : ShowsError t.res e.status.toNat := by
  cases ht.symm.trans (exec_decode_of_raise h)
  exact showsError e _

theorem ErrorKind.eq_of_status_eq {e e' : ErrorKind} (h : e.status = e'.status) : e = e' := by
  revert h
  cases e <;> cases e' <;> decide

theorem resStatus_of_readReg {r : Results} {code : BitVec 2} (h : readReg r .resStatus = some code.toNat) :
    r.resStatus = code :=
  BitVec.eq_of_toNat_eq (Int.ofNat_inj.1 (validWhen_eq_some.1 h).2)

/-- A DECODE that shows OK has accepted (R25). -/
theorem decodeVerdict_of_ok {s t : State} (ht : exec .decode s = .next t) (hok : readReg t.res .resStatus = some 0) :
    ∃ m, decodeVerdict config s = .accept m ∧ t = s.clearStart.writeSuccess m := by
  obtain ⟨m, hm, ht'⟩ | ⟨e, -, ht'⟩ := execDecode_cases s
  · cases ht.symm.trans ht'
    exact ⟨m, hm, rfl⟩
  · cases ht.symm.trans ht'
    exact absurd (readReg_resStatus_eq_zero.1 hok).2 e.status_ne_ok

/-- A DECODE that shows an error's code has raised that error (R25, R83). -/
theorem decodeVerdict_of_status {s t : State} {e : ErrorKind} (ht : exec .decode s = .next t)
    (hstatus : readReg t.res .resStatus = some e.status.toNat) : decodeVerdict config s = .raise e := by
  have hcode := resStatus_of_readReg hstatus
  obtain ⟨m, -, ht'⟩ | ⟨e', he', ht'⟩ := execDecode_cases s
  · cases ht.symm.trans ht'
    exact absurd hcode.symm e.status_ne_ok
  · cases ht.symm.trans ht'
    rw [he', ErrorKind.eq_of_status_eq hcode]

/-- The status is OVERSIZED_PACKAGE only for a declared length of 0 or of 256 and more (R153). -/
theorem size_of_oversized {s : State} (h : decodeVerdict config s = .raise .oversizedPackage) :
    s.windowValue 24 2 = 0 ∨ 256 ≤ s.windowValue 24 2 := by
  rw [decodeVerdict_eq] at h
  repeat' split at h
  all_goals cases h
  assumption

/-- The status is ILLEGAL_MAGIC only for another magic field (R140). -/
theorem magic_of_illegalMagic {s : State} (h : decodeVerdict config s = .raise .illegalMagic) :
    s.windowValue 0 4 ≠ 0x20160905 := by
  rw [decodeVerdict_eq] at h
  repeat' split at h
  all_goals cases h
  assumption

/-- Two windows with the same bytes and the same end are one input to DECODE (R60). -/
theorem State.sameDecodeInput_of_byteAt {s v : State} (hlen : v.inLen.toNat = s.inLen.toNat)
    (hbytes : ∀ a, v.byteAt a = s.byteAt a) : s.SameDecodeInput v where
  inLen := by rw [hlen]
  bytes a ha := (State.read_of_byteAt ((hbytes a).trans (State.byteAt_inside (by omega)))).symm

end Sys2Proof.Machine
end

section
/-! SUPPORT. Header fields as numbers of the window (spec/41_little_endian_deserializer.md R124) and the command's class
(spec/44_body_and_command.md R173). -/

namespace Sys2Proof.Machine

/-- A 32-bit field holds its four bytes' number. -/
theorem State.toNat_word_windowValue (s : State) (a : Nat) :
    (BitVec.ofNat 32 (s.windowValue a 4)).toNat = s.windowValue a 4 := by
  have := s.windowValue_lt a 4
  rw [BitVec.toNat_ofNat]
  omega

/-- The code field reads as two's complement (R13, R28). -/
theorem State.toInt_word_windowValue (s : State) (a : Nat) :
    (BitVec.ofNat 32 (s.windowValue a 4)).toInt = signed32 (s.windowValue a 4) := by
  have := s.windowValue_lt a 4
  rw [BitVec.toInt_eq_toNat_cond, State.toNat_word_windowValue, signed32]
  split <;> split <;> omega

theorem classify_heartbeat {c : Word} (h : c.toNat = 0) : classify config c = CmdClass.heartbeat :=
  if_pos (BitVec.eq_of_toNat_eq h)

theorem classify_echo {c : Word} (h : c.toNat = 1) : classify config c = CmdClass.echo := by
  obtain rfl : c = 1#32 := BitVec.eq_of_toNat_eq h
  rfl

theorem classify_unknown {c : Word} (h : 2 ≤ c.toNat) : classify config c = CmdClass.unknown := by
  have hheartbeat : c ≠ config.cmdHeartbeat := by rintro rfl; simp at h
  have hecho : c ≠ config.cmdEcho := by rintro rfl; simp at h
  rw [classify, if_neg hheartbeat, if_neg hecho]

end Sys2Proof.Machine
end

section
/-! SUPPORT. Windows that hold a wire image (spec/30_encoding.md R70, R81): the header and the body read back. -/

namespace Sys2Proof.Machine

/-- A part of a run of the window's bytes is the window's bytes there. -/
theorem State.take_drop_rawBytes (s : State) {a i k n : Nat} (h : i + k ≤ n) :
    ((s.rawBytes a n).drop i).take k = s.rawBytes (a + i) k := by
  apply List.ext_getElem
  · simp only [List.length_take, List.length_drop, State.rawBytes_length]
    omega
  · intro j _ _
    simp [State.rawBytes, Nat.add_assoc]

theorem State.rawBytes_of_readBytes {s : State} {a n : Nat} {bytes : List Byte}
    (h : s.readBytes a n = some bytes) : s.rawBytes a n = bytes := by
  rw [State.readBytes_eq] at h
  split at h <;> cases h
  rfl

/-- Four bytes of the window are known by their number. -/
theorem State.readBytes_four_eq_some_iff {s : State} {a : Nat} {bytes : List Byte} (h : a + 4 ≤ s.inLen.toNat)
    (hlen : bytes.length = 4) : s.readBytes a 4 = some bytes ↔ s.windowValue a 4 = leValue bytes := by
  rw [State.readBytes_inside h, Option.some_inj, ← State.leValue_rawBytes]
  refine ⟨fun heq => heq ▸ rfl, fun heq => ?_⟩
  rw [← leBytes_leValue (s.rawBytes a 4), ← leBytes_leValue bytes, State.rawBytes_length, hlen, heq]

@[simp] theorem headerImage_length (h : Header) : (headerImage h).length = 32 := rfl

theorem wireImage_length (h : Header) (body : List Byte) : (wireImage h body).length = 33 + body.length := by
  simp only [wireImage, List.length_append, headerImage_length, List.length_cons]
  omega

/-- A field whose bytes are a number's holds the number (R54, R81). -/
theorem State.ofNat_windowValue_of_leBytes {s : State} {a n : Nat} {v : BitVec (8 * n)}
    (h : s.rawBytes a n = leBytes n v.toNat) : BitVec.ofNat (8 * n) (s.windowValue a n) = v := by
  have hlt : v.toNat < 256 ^ n := v.isLt.trans_eq (Nat.pow_mul 2 8 n)
  rw [← State.leValue_rawBytes, h, leValue_leBytes, Nat.mod_eq_of_lt hlt, BitVec.ofNat_toNat, BitVec.setWidth_eq]

/-- A header is read back from its image, field by field (R124, R81). -/
theorem State.rawHeader_of_headerImage {s : State} {h : Header} (himage : s.rawBytes 0 32 = headerImage h) :
    s.rawHeader = h := by
  have hfield : ∀ a n (v : BitVec (8 * n)), a + n ≤ 32 → ((headerImage h).drop a).take n = leBytes n v.toNat →
      BitVec.ofNat (8 * n) (s.windowValue a n) = v := by
    intro a n v ha hbytes
    apply State.ofNat_windowValue_of_leBytes
    rw [← hbytes, ← himage, s.take_drop_rawBytes ha, Nat.zero_add]
  obtain ⟨magic, logID, sequence, serviceID, command, code, bodyLength, rsvd16, rsvd32⟩ := h
  rw [State.rawHeader, Header.mk.injEq]
  exact ⟨hfield 0 4 magic (by omega) rfl, hfield 4 4 logID (by omega) rfl, hfield 8 4 sequence (by omega) rfl,
    hfield 12 4 serviceID (by omega) rfl, hfield 16 4 command (by omega) rfl, hfield 20 4 code (by omega) rfl,
    hfield 24 2 bodyLength (by omega) rfl, hfield 26 2 rsvd16 (by omega) rfl, hfield 28 4 rsvd32 (by omega) rfl⟩

/-- A window's bytes that hold a wire image's header give its magic and its declared length. -/
theorem State.fields_of_headerImage {s : State} {h : Header} (himage : s.rawBytes 0 32 = headerImage h) :
    s.windowValue 0 4 = h.magic.toNat ∧ s.windowValue 24 2 = h.bodyLength.toNat := by
  rw [← rawHeader_magic, ← rawHeader_bodyLength, State.rawHeader_of_headerImage himage]
  exact ⟨rfl, rfl⟩

/-- The image's first 32 bytes are the header's, however much of the image the window holds. -/
theorem State.headerImage_of_take {s : State} {h : Header} {body : List Byte} {n : Nat} (hn : 32 ≤ n)
    (himage : s.rawBytes 0 n = (wireImage h body).take n) : s.rawBytes 0 32 = headerImage h := by
  calc s.rawBytes 0 32
      = (((wireImage h body).take n).drop 0).take 32 := by rw [← himage, s.take_drop_rawBytes (by omega)]
    _ = (wireImage h body).take 32 := by rw [List.drop_zero, List.take_take, Nat.min_eq_left hn]
    _ = headerImage h := List.take_left' (headerImage_length h)

theorem State.headerImage_of_wireImage {s : State} {h : Header} {body : List Byte}
    (himage : s.rawBytes 0 (33 + body.length) = wireImage h body) : s.rawBytes 0 32 = headerImage h :=
  State.headerImage_of_take (by omega) (himage.trans (List.take_of_length_le (wireImage_length h body).le).symm)

/-- Behind the header stand the length byte and the body (R81). -/
theorem State.body_of_wireImage {s : State} {h : Header} {body : List Byte}
    (himage : s.rawBytes 0 (33 + body.length) = wireImage h body) :
    Memory.read s.inBuf 32 = BitVec.ofNat 8 body.length ∧ s.rawBytes 33 body.length = body := by
  have htail : s.rawBytes 32 (1 + body.length) = BitVec.ofNat 8 body.length :: body := by
    calc s.rawBytes 32 (1 + body.length)
        = ((s.rawBytes 0 (33 + body.length)).drop 32).take (1 + body.length) := by
          rw [s.take_drop_rawBytes (by omega)]
      _ = BitVec.ofNat 8 body.length :: body := by
          rw [himage, wireImage, List.drop_left' (headerImage_length h), List.take_of_length_le]
          rw [List.length_cons, Nat.add_comm]
  rwa [Nat.add_comm, State.rawBytes_succ, List.cons.injEq] at htail

/-- The message of a consistent packet's window is the packet's (R106). -/
theorem State.rawMessage_of_wireImage {s : State} {h : Header} {body : List Byte} (hlen : body.length ≤ 254)
    (himage : s.rawBytes 0 (33 + body.length) = wireImage h body) :
    s.windowValue 32 1 = body.length ∧ s.rawMessage = assemble config h (BitVec.ofNat 8 body.length) body := by
  obtain ⟨hprefix, hbody⟩ := State.body_of_wireImage himage
  have hvalue : s.windowValue 32 1 = body.length := by
    rw [windowValue_one, hprefix, BitVec.toNat_ofNat]
    omega
  refine ⟨hvalue, ?_⟩
  rw [State.rawMessage, State.rawHeader_of_headerImage (State.headerImage_of_wireImage himage), hprefix, hvalue, hbody]

end Sys2Proof.Machine
end

section
/-! The statements of spec/40_packet_header_parser.md. -/

namespace Sys2Proof.Machine

/-- Settles O26: the error write shows its error kind's code, and ends the transaction with the ports as they were. -/
theorem errorWriteShowsNoMessage : Obligations.ErrorWriteShowsNoMessage := by
  intro s
  have hshows : ∀ {e}, s.tx.err = e → ShowsError (s.writeError s.tx.err).res e.status.toNat :=
    fun h => h ▸ showsError s.tx.err s.draws
  exact ⟨_, rfl, rfl, (ResultUpdate.error _).samePorts, rfl, hshows, hshows, hshows⟩

/-- Settles O25: the success write shows the local values as the message, and ends the transaction with the ports as
they were. -/
theorem successWriteShowsTheMessage : Obligations.SuccessWriteShowsTheMessage := by
  intro s hlen
  exact ⟨s.writeSuccess s.tx.message, rfl, rfl, showsMessage s.tx.message s.draws hlen,
    (ResultUpdate.success _).samePorts, rfl⟩

/-- Settles O29: past every gate the verdict is the window's own message, whose fields are the window's numbers. -/
theorem decodeShowsTheWindowsMessage : Obligations.DecodeShowsTheWindowsMessage := by
  intro s hgates hpast
  have haccept := exec_decode_of_accept (decodeVerdict_accept_iff.2 ⟨⟨hgates, hpast⟩, rfl⟩)
  have hcommand := s.toNat_word_windowValue 16
  have hclass : ∀ {cls : BitVec 2}, classify config s.rawHeader.command = cls → s.rawMessage.cls.toNat = cls.toNat :=
    fun h => congrArg BitVec.toNat h
  refine ⟨_, s.rawHeader, s.rawMessage.pfx, s.rawMessage.body, s.rawMessage.consumed, s.rawMessage.cls, haccept, rfl,
    showsMessage _ _ s.rawMessage_body_length, s.toNat_word_windowValue 0, s.toNat_word_windowValue 4,
    s.toNat_word_windowValue 8, s.toNat_word_windowValue 12, hcommand, s.toInt_word_windowValue 20,
    rawHeader_bodyLength s, rawHeader_rsvd16 s, rawHeader_rsvd32 s, (windowValue_one s 32).symm,
    s.rawMessage_body_length, fun i hi => ?_, consumedLength_toNat _, fun h => ?_, fun h => ?_, fun h => ?_⟩
  · simp [State.rawMessage, assemble, State.rawBytes]
  · exact hclass (classify_heartbeat (hcommand.trans h))
  · exact hclass (classify_echo (hcommand.trans h))
  · exact hclass (classify_unknown (h.trans_eq hcommand.symm))

/-- Settles O32: the longer window is accepted with the same message, ADVANCE drops what it consumed, and windows of the
same rest are one input to the next DECODE. -/
theorem multiPacketWindowsDecodeOneByOne : Obligations.MultiPacketWindowsDecodeOneByOne := by
  rintro s w t c rfl ht hok hconsumed hlen hbytes
  obtain ⟨m, hm, rfl⟩ := decodeVerdict_of_ok ht hok
  have hc : m.consumed.toNat = s.inLen.toNat := Int.ofNat_inj.1 (validWhen_eq_some.1 hconsumed).2
  have hw := exec_decode_of_accept (decodeVerdict_accept_extend hm hlen hbytes)
  have hin : m.consumed.toNat ≤ w.inLen.toNat := hc.trans_le hlen
  have hadvance : hostExec .advance (w.clearStart.writeSuccess m) =
      .next ((w.clearStart.writeSuccess m).dropWindow m.consumed) :=
    hostExec_advance_inside rfl hin
  obtain ⟨hrest, hrestBytes⟩ := State.dropWindow_window (s := w.clearStart.writeSuccess m) hin
  rw [hc] at hrest hrestBytes
  obtain ⟨x, hx, -⟩ := execDecode_resultUpdate ((w.clearStart.writeSuccess m).dropWindow m.consumed)
  refine ⟨_, _, x, hw, Results.success_sameResults (decodeVerdict_accept_body_length hm) _ _, hadvance, hrest,
    hrestBytes, hx, fun v hv hvbytes => ?_⟩
  have hsame := State.sameDecodeInput_of_byteAt (Nat.add_right_cancel (hv.trans hrest.symm))
    fun a => (hvbytes a).trans (hrestBytes a).symm
  obtain ⟨x', y, hx', hy, hres⟩ := hsame.sameResults
  cases hx.symm.trans hx'
  exact ⟨y, hy, hres⟩

/-- Settles O33: a window that begins with the image passes every gate, and its message is the image's. -/
theorem decodeReadsBackTheWireImage : Obligations.DecodeReadsBackTheWireImage := by
  rintro s h body hmagic hlen hdeclared ⟨hin, hread⟩
  have himage := State.rawBytes_of_readBytes hread
  rw [wireImage_length] at hin himage
  obtain ⟨hmagic', hdeclared'⟩ := State.fields_of_headerImage (State.headerImage_of_wireImage himage)
  obtain ⟨hvalue, hmessage⟩ := State.rawMessage_of_wireImage hlen himage
  have hpfx : (BitVec.ofNat 8 body.length).toNat = body.length := by
    rw [BitVec.toNat_ofNat]
    omega
  have hgates : s.passesLengthGates := ⟨by omega, hmagic'.trans hmagic, by omega, by omega, by omega⟩
  have haccept := decodeVerdict_accept_iff.2 ⟨⟨hgates, by omega⟩, hmessage.symm⟩
  have hconsumed : consumedLength config (BitVec.ofNat 8 body.length) = BitVec.ofNat 32 (33 + body.length) := by
    rw [consumedLength, hpfx]
    rfl
  exact ⟨_, exec_decode_of_accept haccept, hconsumed ▸ showsMessage (assemble config h _ body) s.draws hpfx.symm,
    wireImage_length h body⟩

/-- Settles O34: a beginning without the whole header stops at the first gate; one with it declares more bytes than are
there. -/
theorem truncatedPacketsAreInsufficient : Obligations.TruncatedPacketsAreInsufficient := by
  intro s h body hmagic hlen hdeclared hshort hread
  have hverdict : decodeVerdict config s = .raise .insufficientData := by
    obtain hheader | hheader := Nat.lt_or_ge s.inLen.toNat 32
    · exact decodeVerdict_of_headerShort hheader
    · obtain ⟨hmagic', hdeclared'⟩ := State.fields_of_headerImage
        (State.headerImage_of_take hheader (State.rawBytes_of_readBytes hread))
      exact decodeVerdict_of_bodyShort hheader (hmagic'.trans hmagic) (by omega)
  exact ⟨_, exec_decode_of_raise hverdict, showsError _ _⟩

/-- Settles O35: the four bytes are the magic field's number, and the gate's answer is the verdict's. -/
theorem magicGatePassesExactlyTheFourBytes : Obligations.MagicGatePassesExactlyTheFourBytes := by
  intro s hheader
  have hbytes : s.readBytes 0 4 = some [0x05, 0x09, 0x16, 0x20] ↔ s.windowValue 0 4 = 0x20160905 :=
    State.readBytes_four_eq_some_iff (by omega) rfl
  rw [ne_eq, hbytes]
  obtain ⟨t, ht, -⟩ := execDecode_resultUpdate s
  refine ⟨t, ht, fun hmagic hstatus => ?_, fun hmagic => ?_⟩
  · exact magic_of_illegalMagic (decodeVerdict_of_status (e := .illegalMagic) ht hstatus) hmagic
  · exact showsError_of_raise ht (decodeVerdict_of_wrongMagic hheader hmagic)

/-- Settles O36: the declared length's gate comes before the size's, and the size gate stops no length of 255. -/
theorem oversizeIsReportedOnceTheBytesAreThere : Obligations.OversizeIsReportedOnceTheBytesAreThere := by
  intro s hheader hmagic
  obtain ⟨t, ht, -⟩ := execDecode_resultUpdate s
  refine ⟨t, ht, fun hsize hbody => ?_, fun _ hbody => ?_, fun hsize hstatus => ?_⟩
  · exact showsError_of_raise ht (decodeVerdict_of_oversized hheader hmagic hbody (.inr hsize))
  · exact showsError_of_raise ht (decodeVerdict_of_bodyShort hheader hmagic hbody)
  · have := size_of_oversized (decodeVerdict_of_status (e := .oversizedPackage) ht hstatus)
    omega

end Sys2Proof.Machine
end

section
/-! SUPPORT. The deserializer's operations by the window (spec/41_little_endian_deserializer.md R120 to R124): one
equation per primitive, from one lemma on reads of every width. -/

namespace Sys2Proof.Machine

/-- A field of n bytes fits a register of 8n bits. -/
theorem State.toNat_ofNat_windowValue (s : State) (a n : Nat) :
    (BitVec.ofNat (8 * n) (s.windowValue a n)).toNat = s.windowValue a n := by
  have hfits : s.windowValue a n < 2 ^ (8 * n) := (s.windowValue_lt a n).trans_eq (Nat.pow_mul 2 8 n).symm
  rw [BitVec.toNat_ofNat, Nat.mod_eq_of_lt hfits]

/-- A primitive that reads n bytes, takes them into a register and reads that register as v: it returns v where the
bytes are in the window, and is OutOfWindow where they are not (R51). -/
theorem primResult_memRead {s : State} {a n w : Nat} {read : BitVec w → Int} {v : Int} (hn : 0 < n)
    (hv : read (BitVec.ofNat w (s.windowValue a n)) = v) :
    primResult (((s.memRead a n).map (BitVec.ofNat w)).map read) s =
      if a + n ≤ s.inLen.toNat then .next (s.returnPrim v) else .fault .outOfWindow := by
  obtain ⟨hinside, houtside⟩ := memReadIsTheLittleEndianSum s a n hn
  by_cases hin : a + n ≤ s.inLen.toNat
  · rw [if_pos hin, hinside hin, ← hv]
    rfl
  · rw [if_neg hin, houtside (Nat.lt_of_not_le hin)]
    rfl

theorem exec_leU8 (a : Word) (s : State) :
    exec (.leU8 a) s = if a.toNat + 1 ≤ s.inLen.toNat then .next (s.returnPrim (s.windowValue a.toNat 1))
      else .fault .outOfWindow :=
  primResult_memRead Nat.one_pos (congrArg Nat.cast (s.toNat_ofNat_windowValue a.toNat 1))

theorem exec_leU16 (a : Word) (s : State) :
    exec (.leU16 a) s = if a.toNat + 2 ≤ s.inLen.toNat then .next (s.returnPrim (s.windowValue a.toNat 2))
      else .fault .outOfWindow :=
  primResult_memRead Nat.two_pos (congrArg Nat.cast (s.toNat_ofNat_windowValue a.toNat 2))

theorem exec_leU32 (a : Word) (s : State) :
    exec (.leU32 a) s = if a.toNat + 4 ≤ s.inLen.toNat then .next (s.returnPrim (s.windowValue a.toNat 4))
      else .fault .outOfWindow :=
  primResult_memRead (Nat.succ_pos 3) (congrArg Nat.cast (s.toNat_word_windowValue a.toNat))

theorem exec_leS32 (a : Word) (s : State) :
    exec (.leS32 a) s = if a.toNat + 4 ≤ s.inLen.toNat then .next (s.returnPrim (signed32 (s.windowValue a.toNat 4)))
      else .fault .outOfWindow :=
  primResult_memRead (Nat.succ_pos 3) (s.toInt_word_windowValue a.toNat)

/-- With a whole header in the window DESER_HEADER takes it (R124). -/
theorem exec_deserHeader_inside {s : State} (h : 32 ≤ s.inLen.toNat) :
    exec .deserHeader s = .next (s.takeHeader s.rawHeader) := by
  simp only [exec, execDeserHeader, State.deserHeader_inside h]

end Sys2Proof.Machine
end

section
/-! The statements of spec/41_little_endian_deserializer.md. -/

namespace Sys2Proof.Machine

/-- Settles O13: each primitive's equation, where its bytes are in the window and where they are not. -/
theorem primitivesReturnTheirFields : Obligations.PrimitivesReturnTheirFields := fun s a =>
  ⟨fun h => (exec_leU8 a s).trans (if_pos h), fun h => (exec_leU16 a s).trans (if_pos h),
    fun h => (exec_leU32 a s).trans (if_pos h), fun h => (exec_leS32 a s).trans (if_pos h),
    fun h => (exec_leU8 a s).trans (if_neg (Nat.not_le_of_lt h)),
    fun h => (exec_leU16 a s).trans (if_neg (Nat.not_le_of_lt h)),
    fun h => (exec_leU32 a s).trans (if_neg (Nat.not_le_of_lt h)),
    fun h => (exec_leS32 a s).trans (if_neg (Nat.not_le_of_lt h))⟩

/-- Settles O14: the header taken is the one at the window's front, whose fields are the window's numbers. -/
theorem deserHeaderReadsTheNineFields : Obligations.DeserHeaderReadsTheNineFields := by
  intro s h
  exact ⟨s.rawHeader, exec_deserHeader_inside h, s.toNat_word_windowValue 0, s.toNat_word_windowValue 4,
    s.toNat_word_windowValue 8, s.toNat_word_windowValue 12, s.toNat_word_windowValue 16, s.toInt_word_windowValue 20,
    rawHeader_bodyLength s, rawHeader_rsvd16 s, rawHeader_rsvd32 s⟩

end Sys2Proof.Machine
end

section
/-! SUPPORT. What an operation that raises an error leaves and has reported (spec/00_scope.md R14,
spec/40_packet_header_parser.md R103), and the magic gate's two answers (spec/42_magic_number_gate.md R140). -/

namespace Sys2Proof.Machine

/-- An operation that raises an error goes to ERR, and ERROR_WRITE there shows that error's code. -/
theorem raisesAndReports_of_raise {i : Instr} {s : State} {e : ErrorKind} (h : exec i s = .next (s.raise e)) :
    RaisesAndReports i s e e.status.toNat := by
  refine ⟨h, (s.raise e).writeError e, ?_, showsError e s.draws, rfl⟩
  rw [h]
  rfl

theorem exec_magicCheck (s : State) :
    exec .magicCheck s =
      if s.tx.header.magic.toNat = 0x20160905 then .next (s.goto Phase.chkBody) else .next (s.raise .illegalMagic) :=
  if_congr (magicOk_iff s.tx.header) rfl rfl

end Sys2Proof.Machine
end

section
/-! The statement of spec/42_magic_number_gate.md about MAGIC_CHECK. -/

namespace Sys2Proof.Machine

/-- Settles O16: the gate compares the magic field as a number, and raising IllegalMagic shows that error's code. -/
theorem magicCheckComparesAllBits : Obligations.MagicCheckComparesAllBits := fun s =>
  ⟨fun hmagic => (exec_magicCheck s).trans (if_pos hmagic),
    fun hmagic => raisesAndReports_of_raise (e := .illegalMagic) ((exec_magicCheck s).trans (if_neg hmagic))⟩

end Sys2Proof.Machine
end

section
/-! SUPPORT. The gates' operations by the window's numbers (spec/43_length_validator_fsm.md R151 to R153;
spec/44_body_and_command.md R170, R171), and the transition table as steps of the machine (R150). -/

namespace Sys2Proof.Machine

theorem exec_hdrAvailCheck (s : State) :
    exec .hdrAvailCheck s =
      if s.inLen.toNat < 32 then .next (s.raise .insufficientData) else .next (s.goto Phase.deser) :=
  if_congr (headerShort_iff s) rfl rfl

theorem exec_bodyAvailCheck (s : State) :
    exec .bodyAvailCheck s =
      if s.inLen.toNat < 32 + s.tx.header.bodyLength.toNat then .next (s.raise .insufficientData)
      else .next (s.goto Phase.chkSize) :=
  if_congr (bodyShort_iff s s.tx.header) rfl rfl

theorem exec_sizeCheck (s : State) :
    exec .sizeCheck s =
      if s.tx.header.bodyLength.toNat = 0 ∨ 256 ≤ s.tx.header.bodyLength.toNat then .next (s.raise .oversizedPackage)
      else .next (s.goto Phase.pfx) :=
  if_congr (oversized_iff s.tx.header) rfl rfl

theorem exec_prefixRead (s : State) :
    exec .prefixRead s =
      if s.inLen.toNat < 33 then .next (s.raise .insufficientData)
      else .next (s.takePrefix (Memory.read s.inBuf 32)) := by
  refine ite_congr (propext (prefixMissing_iff s)) (fun _ => rfl) fun hin => ?_
  rw [config_hdrLen, State.leU8_inside (by omega)]

theorem exec_bodyExtract (s : State) :
    exec .bodyExtract s =
      if s.inLen.toNat < 33 + s.tx.pfx.toNat then .next (s.raise .insufficientData)
      else .next (s.takeBody (s.rawBytes 33 s.tx.pfx.toNat)) := by
  refine ite_congr (propext (bodyPastWindow_iff s s.tx.pfx)) (fun _ => rfl) fun hin => ?_
  rw [config_hdrLen, State.readBytes_inside (by omega)]

/-- In every phase but IDLE, which takes a request, and FINISH, which has three operations, a transition of R150 is a
step of the machine. -/
theorem transition_eq_step {s : State} (h0 : s.phase ≠ 0) (h8 : s.phase ≠ 8) : transition s = step s := by
  have hidle : s.phase.toNat ≠ 0 := fun h => h0 (BitVec.eq_of_toNat_eq h)
  have hfinish : s.phase.toNat ≠ 8 := fun h => h8 (BitVec.eq_of_toNat_eq h)
  rw [step_phase h0]
  unfold transition decodePhase
  generalize s.phase.toNat = n at hidle hfinish
  match n with
  | 0 => exact absurd rfl hidle
  | 8 => exact absurd rfl hfinish
  | 1 | 2 | 3 | 4 | 5 | 6 | 7 | 9 | n + 10 => rfl

/-- In such a phase a transition is what the operation that the phase selects comes to (R85). -/
theorem transition_of_phase {s : State} {p : BitVec 4} {i : Instr} {o : Out} (h : s.phase = p) (hp : p ≠ 0 ∧ p ≠ 8)
    (hi : decodePhase p s.finish.index.toNat = .ok i) (ho : exec i s = o) : transition s = o := by
  obtain ⟨h0, h8⟩ := hp
  rw [transition_eq_step (h ▸ h0) (h ▸ h8), step_of_phase h h0 hi, ho]

/-- A reserved phase has no transition, as it has no step (R150). -/
theorem transition_of_reserved_phase {s : State} (h : 10 ≤ s.phase.toNat) : transition s = .fault .badPhase := by
  rw [transition_eq_step (fun h0 => by simp [h0] at h) (fun h8 => by simp [h8] at h)]
  exact step_of_reserved_phase h

theorem transition_of_idle {s : State} (h : s.phase = 0) :
    transition s = if s.start then .next s.enter else .next s := by
  rw [transition, h]
  rfl

theorem transition_of_finish {s : State} (h : s.phase = 8) :
    transition s = .next (s.writeSuccess (assemble config s.tx.header s.tx.pfx s.tx.body)) := by
  rw [transition, h]
  rfl

theorem transition_of_err {s : State} (h : s.phase = 9) : transition s = .next (s.writeError s.tx.err) :=
  transition_of_phase (i := .errorWrite) h (by decide) rfl rfl

end Sys2Proof.Machine
end

section
/-! SUPPORT. A transaction under way (spec/43_length_validator_fsm.md R150 to R155): what each transition establishes
for the phase it enters, and the verdict of DECODE as the established facts give it. -/

namespace Sys2Proof.Machine

/-- What the transition into a phase establishes: the gate before it has passed, or its value has been taken
(R151, R124, R140, R152, R154, R170, R171). -/
def State.established (s : State) : Nat → Prop
  | 2 => 32 ≤ s.inLen.toNat
  | 3 => s.tx.header = s.rawHeader
  | 4 => s.tx.header.magic = 0x20160905#32
  | 5 => 32 + s.tx.header.bodyLength.toNat ≤ s.inLen.toNat
  | 6 => 1 ≤ s.tx.header.bodyLength.toNat ∧ s.tx.header.bodyLength.toNat ≤ 255
  | 7 => s.tx.pfx = Memory.read s.inBuf 32
  | 8 => 33 + s.tx.pfx.toNat ≤ s.inLen.toNat ∧ s.tx.body = s.rawBytes 33 s.tx.pfx.toNat
  | _ => True

/-- All that the transitions up to phase n establish. -/
def State.Passed (s : State) (n : Nat) : Prop := ∀ k ≤ n, s.established k

theorem State.Passed.succ {s : State} {n : Nat} (h : s.Passed n) (hnew : s.established (n + 1)) : s.Passed (n + 1) := by
  intro k hk
  obtain hlt | rfl := Nat.lt_or_eq_of_le hk
  · exact h k (Nat.le_of_lt_succ hlt)
  · exact hnew

theorem State.Passed.mono {s : State} {m n : Nat} (h : s.Passed n) (hmn : m ≤ n) : s.Passed m :=
  fun k hk => h k (hk.trans hmn)

/-- The facts are about the window and the local header, prefix and body alone. -/
theorem State.Passed.of_same {s t : State} {n : Nat} (h : s.Passed n) (hbuf : t.inBuf = s.inBuf)
    (hlen : t.inLen = s.inLen) (hheader : t.tx.header = s.tx.header) (hpfx : t.tx.pfx = s.tx.pfx)
    (hbody : t.tx.body = s.tx.body) : t.Passed n := by
  intro k hk
  have hfact := h k hk
  unfold State.established State.rawHeader State.rawBytes State.windowValue at hfact ⊢
  rwa [hbuf, hlen, hheader, hpfx, hbody]

theorem State.Passed.goto {s : State} {n : Nat} (h : s.Passed n) (p : BitVec 4) : (s.goto p).Passed n :=
  h.of_same rfl rfl rfl rfl rfl

theorem State.Passed.takeHeader {s : State} {h : Header} (hpassed : s.Passed 2) (hheader : h = s.rawHeader) :
    (s.takeHeader h).Passed 3 := by
  have hkeep : (s.takeHeader h).Passed 2
    | 0, hk | 1, hk | 2, hk => hpassed _ hk
  exact hkeep.succ hheader

theorem State.Passed.takePrefix {s : State} (h : s.Passed 6) :
    (s.takePrefix (Memory.read s.inBuf 32)).Passed 7 := by
  have hkeep : (s.takePrefix (Memory.read s.inBuf 32)).Passed 6
    | 0, hk | 1, hk | 2, hk | 3, hk | 4, hk | 5, hk | 6, hk => h _ hk
  exact hkeep.succ rfl

theorem State.Passed.takeBody {s : State} (h : s.Passed 7) (hin : 33 + s.tx.pfx.toNat ≤ s.inLen.toNat) :
    (s.takeBody (s.rawBytes 33 s.tx.pfx.toNat)).Passed 8 := by
  have hkeep : (s.takeBody (s.rawBytes 33 s.tx.pfx.toNat)).Passed 7
    | 0, hk | 1, hk | 2, hk | 3, hk | 4, hk | 5, hk | 6, hk | 7, hk => h _ hk
  exact hkeep.succ ⟨hin, rfl⟩

section Values
variable {s : State}

theorem State.Passed.bodyLength_eq (h : s.Passed 3) : s.tx.header.bodyLength.toNat = s.windowValue 24 2 := by
  have hheader : s.tx.header = s.rawHeader := h 3 (by omega)
  rw [hheader, rawHeader_bodyLength]

theorem State.Passed.magic_eq (h : s.Passed 3) : s.tx.header.magic.toNat = s.windowValue 0 4 := by
  have hheader : s.tx.header = s.rawHeader := h 3 (by omega)
  rw [hheader, rawHeader_magic]

theorem State.Passed.magic_passes (h : s.Passed 4) : s.windowValue 0 4 = 0x20160905 := by
  have hmagic : s.tx.header.magic = 0x20160905#32 := h 4 (by omega)
  rw [← (h.mono (by omega)).magic_eq, hmagic]
  rfl

theorem State.Passed.passesLengthGates (h : s.Passed 6) : s.passesLengthGates := by
  have hdeclared : 32 + s.tx.header.bodyLength.toNat ≤ s.inLen.toNat := h 5 (by omega)
  obtain ⟨hlow, hhigh⟩ : 1 ≤ s.tx.header.bodyLength.toNat ∧ s.tx.header.bodyLength.toNat ≤ 255 := h 6 (by omega)
  rw [(h.mono (by omega)).bodyLength_eq] at hdeclared hlow hhigh
  exact ⟨h 2 (by omega), (h.mono (by omega)).magic_passes, hdeclared, hlow, hhigh⟩

/-- The prefix byte is in the window once the declared length has passed (R155). -/
theorem State.Passed.prefix_inside (h : s.Passed 6) : 33 ≤ s.inLen.toNat := by
  obtain ⟨-, -, hdeclared, hlow, -⟩ := h.passesLengthGates
  omega

theorem State.Passed.prefix_eq (h : s.Passed 7) : s.tx.pfx.toNat = s.windowValue 32 1 := by
  have hprefix : s.tx.pfx = Memory.read s.inBuf 32 := h 7 (by omega)
  rw [hprefix, windowValue_one]

/-! The verdict at each gate that fails, and in FINISH. -/

theorem State.Passed.verdict_of_wrongMagic (h : s.Passed 3) (hmagic : s.tx.header.magic.toNat ≠ 0x20160905) :
    decodeVerdict config s = .raise .illegalMagic :=
  decodeVerdict_of_wrongMagic (h 2 (by omega)) (h.magic_eq ▸ hmagic)

theorem State.Passed.verdict_of_bodyShort (h : s.Passed 4)
    (hbody : s.inLen.toNat < 32 + s.tx.header.bodyLength.toNat) :
    decodeVerdict config s = .raise .insufficientData :=
  decodeVerdict_of_bodyShort (h 2 (by omega)) h.magic_passes ((h.mono (by omega)).bodyLength_eq ▸ hbody)

theorem State.Passed.verdict_of_oversized (h : s.Passed 5)
    (hsize : s.tx.header.bodyLength.toNat = 0 ∨ 256 ≤ s.tx.header.bodyLength.toNat) :
    decodeVerdict config s = .raise .oversizedPackage := by
  have hdeclared : 32 + s.tx.header.bodyLength.toNat ≤ s.inLen.toNat := h 5 (by omega)
  rw [(h.mono (by omega)).bodyLength_eq] at hdeclared hsize
  exact decodeVerdict_of_oversized (h 2 (by omega)) (h.mono (by omega)).magic_passes hdeclared hsize

theorem State.Passed.verdict_of_bodyPast (h : s.Passed 7) (hpast : s.inLen.toNat < 33 + s.tx.pfx.toNat) :
    decodeVerdict config s = .raise .insufficientData := by
  obtain ⟨hheader, hmagic, hdeclared, hlow, hhigh⟩ := (h.mono (by omega)).passesLengthGates
  rw [h.prefix_eq] at hpast
  rw [decodeVerdict_eq, if_neg (by omega), if_neg (not_not.2 hmagic), if_neg (by omega), if_neg (by omega),
    if_pos hpast]

/-- In FINISH the local values are the message that DECODE accepts (R100). -/
theorem State.Passed.verdict_of_finish (h : s.Passed 8) :
    decodeVerdict config s = .accept (assemble config s.tx.header s.tx.pfx s.tx.body) := by
  have hheader : s.tx.header = s.rawHeader := h 3 (by omega)
  have hprefix : s.tx.pfx = Memory.read s.inBuf 32 := h 7 (by omega)
  obtain ⟨hin, hbody⟩ : 33 + s.tx.pfx.toNat ≤ s.inLen.toNat ∧ s.tx.body = s.rawBytes 33 s.tx.pfx.toNat := h 8 le_rfl
  rw [(h.mono (by omega)).prefix_eq] at hin hbody
  rw [hheader, hprefix, hbody]
  exact decodeVerdict_accept_iff.2 ⟨⟨(h.mono (by omega)).passesLengthGates, hin⟩, rfl⟩

end Values

end Sys2Proof.Machine
end

section
/-! SUPPORT. One move of a transaction that is under way (spec/43_length_validator_fsm.md R150): in every phase from
CHK_HDR to BODY a step passes on to the next phase with its fact established, or raises DECODE's own error. -/

namespace Sys2Proof.Machine

/-- The verdict is the window's: it looks at no other part of the state (R39). -/
theorem decodeVerdict_congr {s t : State} (hbuf : t.inBuf = s.inBuf) (hlen : t.inLen = s.inLen) :
    decodeVerdict config t = decodeVerdict config s :=
  State.SameDecodeInput.decodeVerdict_congr ⟨by rw [hlen], fun _ _ => by rw [hbuf]⟩

/-- A transaction is under way: the facts of every phase up to this one are established, and in ERR the error is the one
that DECODE reports (R150, R101). -/
structure State.UnderWay (s : State) : Prop where
  started : 1 ≤ s.phase.toNat
  legal : s.phase.toNat ≤ 9
  passed : s.phase.toNat ≤ 8 → s.Passed s.phase.toNat
  err : s.phase = 9 → decodeVerdict config s = .raise s.tx.err

/-- One step leads on to the next phase or to ERR with the transaction still under way, and what a result write would
leave is as before. -/
structure State.MovesTo (s t : State) : Prop where
  step : step s = .next t
  phase : t.phase.toNat = s.phase.toNat + 1 ∨ t.phase = 9
  underWay : t.UnderWay
  finish : t.finish = if t.phase = 8 then .consumed else s.finish
  ends : t.endTransaction = s.endTransaction

theorem State.Passed.underWay {s : State} {n : Nat} (h : s.Passed n) (hphase : s.phase.toNat = n) (hlow : 1 ≤ n)
    (hhigh : n ≤ 8) : s.UnderWay := by
  subst hphase
  exact ⟨hlow, by omega, fun _ => h, fun h9 => by simp [h9] at hhigh⟩

theorem State.underWay_raise {s : State} {e : ErrorKind} (h : decodeVerdict config s = .raise e) :
    (s.raise e).UnderWay where
  started := by simp
  legal := by simp
  passed h8 := by simp at h8
  err _ := (decodeVerdict_congr (s := s) (t := s.raise e) rfl rfl).trans h

theorem State.movesTo_raise {s : State} {e : ErrorKind} (hstep : step s = .next (s.raise e))
    (h : decodeVerdict config s = .raise e) : s.MovesTo (s.raise e) :=
  ⟨hstep, .inr rfl, underWay_raise h, rfl, rfl⟩

/-- A gate that raises DECODE's error where it fails, and where it passes goes on to the next phase. -/
theorem State.Passed.moves_of_gate {s : State} {n : Nat} {p : BitVec 4} {e : ErrorKind} {fails : Prop}
    [Decidable fails] (h : s.Passed n) (hphase : s.phase.toNat = n) (hlow : 1 ≤ n) (hhigh : n ≤ 6)
    (hp : p.toNat = n + 1) (hstep : step s = if fails then .next (s.raise e) else .next (s.goto p))
    (hfail : fails → decodeVerdict config s = .raise e) (hpass : ¬ fails → s.established (n + 1)) :
    ∃ t, s.MovesTo t := by
  by_cases hf : fails
  · exact ⟨_, movesTo_raise (hstep.trans (if_pos hf)) (hfail hf)⟩
  · have hne : p ≠ 8 := fun h8 => by simp [h8] at hp; omega
    exact ⟨_, hstep.trans (if_neg hf), .inl (by rw [goto_phase, hp, hphase]),
      ((h.succ (hpass hf)).goto p).underWay hp (by omega) (by omega), (if_neg hne).symm, rfl⟩

/-- Every phase before FINISH and ERR moves on (R150); PREFIX always passes (R155). -/
theorem State.UnderWay.move {s : State} (h : s.UnderWay) (hphase : s.phase.toNat ≤ 7) : ∃ t, s.MovesTo t := by
  have hpassed := h.passed (by omega)
  have hcases : s.phase = 1 ∨ s.phase = 2 ∨ s.phase = 3 ∨ s.phase = 4 ∨ s.phase = 5 ∨ s.phase = 6 ∨ s.phase = 7 := by
    have := h.started
    bv_omega
  obtain ⟨-, hchkHdr, hdeser, hmagic, hchkBody, hchkSize, hprefix, hbody, -⟩ := phaseSelectsItsMicroOperation s
  obtain hp | hp | hp | hp | hp | hp | hp := hcases <;> rw [hp] at hpassed
  · exact hpassed.moves_of_gate (congrArg BitVec.toNat hp) (by decide) (by decide) rfl
      ((hchkHdr hp).trans (exec_hdrAvailCheck s)) decodeVerdict_of_headerShort Nat.le_of_not_lt
  · exact ⟨_, (hdeser hp).trans (exec_deserHeader_inside (hpassed 2 le_rfl)), .inl (by rw [hp]; rfl),
      (hpassed.takeHeader rfl).underWay rfl (by decide) (by decide), rfl, rfl⟩
  · exact hpassed.moves_of_gate (congrArg BitVec.toNat hp) (by decide) (by decide) rfl
      ((hmagic hp).trans ((exec_magicCheck s).trans (ite_not _ _ _).symm)) hpassed.verdict_of_wrongMagic
      fun heq => BitVec.eq_of_toNat_eq (not_not.1 heq)
  · exact hpassed.moves_of_gate (congrArg BitVec.toNat hp) (by decide) (by decide) rfl
      ((hchkBody hp).trans (exec_bodyAvailCheck s)) hpassed.verdict_of_bodyShort Nat.le_of_not_lt
  · exact hpassed.moves_of_gate (congrArg BitVec.toNat hp) (by decide) (by decide) rfl
      ((hchkSize hp).trans (exec_sizeCheck s)) hpassed.verdict_of_oversized fun hsize => ⟨by omega, by omega⟩
  · exact ⟨_, (hprefix hp).trans ((exec_prefixRead s).trans (if_neg hpassed.prefix_inside.not_gt)),
      .inl (by rw [hp]; rfl), hpassed.takePrefix.underWay rfl (by decide) (by decide), rfl, rfl⟩
  · have hstep := (hbody hp).trans (exec_bodyExtract s)
    obtain hpast | hin := Nat.lt_or_ge s.inLen.toNat (33 + s.tx.pfx.toNat)
    · exact ⟨_, movesTo_raise (hstep.trans (if_pos hpast)) (hpassed.verdict_of_bodyPast hpast)⟩
    · exact ⟨_, hstep.trans (if_neg hin.not_gt), .inl (by rw [hp]; rfl),
        (hpassed.takeBody hin).underWay rfl (by decide) (by decide), rfl, rfl⟩

end Sys2Proof.Machine
end

section
/-! SUPPORT. The walk from CHK_HDR back to IDLE (spec/43_length_validator_fsm.md R150, R156): by induction on the phases
still to come, both as transitions and as the machine's own steps, it leaves what DECODE's verdict writes. -/

namespace Sys2Proof.Machine

/-- A verdict is written alike from every state that the transaction ends in alike (R102, R103). -/
theorem writeVerdict_congr {s t : State} (h : t.endTransaction = s.endTransaction) (v : Verdict) :
    writeVerdict v t = writeVerdict v s := by
  have hdraws : t.draws = s.draws := Nat.succ.inj (congrArg State.draws h)
  cases v <;> simp only [writeVerdict, State.writeSuccess, State.writeError, h, hdraws]

/-- What DECODE's verdict leaves does not depend on how far the transaction has come. -/
theorem writeVerdict_decodeVerdict_congr {s t : State} (h : t.endTransaction = s.endTransaction) :
    writeVerdict (decodeVerdict config t) t = writeVerdict (decodeVerdict config s) s := by
  have hbuf : t.inBuf = s.inBuf := (congrArg State.inBuf h :)
  have hlen : t.inLen = s.inLen := (congrArg State.inLen h :)
  rw [writeVerdict_congr h, decodeVerdict_congr hbuf hlen]

/-- Within n transitions the phase machine is back in IDLE with this outcome, and within n + 2 of its own steps the
machine has it too: the FINISH that is one transition is three steps (log 9). -/
structure State.EndsIn (n : Nat) (s : State) (o : Out) : Prop where
  transitions : runToIdle n s = some o
  steps : ∃ k ≤ n + 2, Host.Core.run core k s = o

theorem runToIdle_of_idle {n : Nat} {s t : State} (h : transition s = .next t) (ht : t.phase = 0) :
    runToIdle (n + 1) s = some (.next t) := by
  simp only [runToIdle, h, if_pos ht]

theorem runToIdle_of_next {n : Nat} {s t : State} (h : transition s = .next t) (ht : t.phase ≠ 0) :
    runToIdle (n + 1) s = runToIdle n t := by
  simp only [runToIdle, h, if_neg ht]

theorem State.UnderWay.phase_ne_idle {s : State} (h : s.UnderWay) : s.phase ≠ 0 := fun hidle => by
  have := h.started
  simp [hidle] at this

/-- A move inside the transaction puts one transition and one step in front of the walk. -/
theorem State.MovesTo.endsIn {s t : State} {n : Nat} {o : Out} (h : s.MovesTo t) (h0 : s.phase ≠ 0) (h8 : s.phase ≠ 8)
    (ht : t.EndsIn n o) : s.EndsIn (n + 1) o := by
  obtain ⟨k, hk, hrun⟩ := ht.steps
  have htransition := (transition_eq_step h0 h8).trans h.step
  exact ⟨(runToIdle_of_next htransition h.underWay.phase_ne_idle).trans ht.transitions, k + 1, by omega,
    (run_next h.step).trans hrun⟩

theorem step_consumedCalc {s : State} (hp : s.phase = 8) (hf : s.finish = .consumed) :
    step s = .next (s.takeConsumed (consumedLength config s.tx.pfx)) :=
  step_of_phase (i := .consumedCalc) hp (by decide) (by rw [hf]; rfl)

theorem step_cmdClassify {s : State} (hp : s.phase = 8) (hf : s.finish = .classify) :
    step s = .next (s.takeClass (classify config s.tx.header.command)) :=
  step_of_phase (i := .cmdClassify) hp (by decide) (by rw [hf]; rfl)

theorem step_successWrite {s : State} (hp : s.phase = 8) (hf : s.finish = .write) :
    step s = .next (s.writeSuccess s.tx.message) :=
  step_of_phase (i := .successWrite) hp (by decide) (by rw [hf]; rfl)

theorem step_errorWrite {s : State} (hp : s.phase = 9) : step s = .next (s.writeError s.tx.err) :=
  step_of_phase (i := .errorWrite) hp (by decide) rfl

theorem State.UnderWay.endsIn_of_err {s : State} (h : s.UnderWay) (hp : s.phase = 9) (n : Nat) :
    s.EndsIn (n + 1) (writeVerdict (decodeVerdict config s) s) := by
  rw [h.err hp]
  exact ⟨runToIdle_of_idle (transition_of_err hp) rfl, 1, by omega, run_next (step_errorWrite hp)⟩

/-- FINISH is one transition or three steps, and writes the message that DECODE accepts (R102, R172, R173). -/
theorem State.UnderWay.endsIn_of_finish {s : State} (h : s.UnderWay) (hp : s.phase = 8) (hf : s.finish = .consumed) :
    s.EndsIn 1 (writeVerdict (decodeVerdict config s) s) := by
  have hpassed := h.passed (by rw [hp]; decide)
  rw [hp] at hpassed
  rw [hpassed.verdict_of_finish]
  refine ⟨runToIdle_of_idle (transition_of_finish hp) rfl, 3, le_rfl, ?_⟩
  exact (run_next (step_consumedCalc hp hf)).trans ((run_next (step_cmdClassify (s := s.takeConsumed _) hp rfl)).trans
    (run_next (step_successWrite (s := (s.takeConsumed _).takeClass _) hp rfl)))

/-- From any phase of a transaction the walk writes DECODE's verdict, in one transition a phase at most (R156). -/
theorem State.UnderWay.endsIn {s : State} (h : s.UnderWay) {n : Nat} (hn : s.phase.toNat + n = 8 ∨ s.phase = 9)
    (hf : s.phase = 8 → s.finish = .consumed) : s.EndsIn (n + 1) (writeVerdict (decodeVerdict config s) s) := by
  induction n generalizing s with
  | zero =>
    obtain hp | hp := hn
    · have h8 : s.phase = 8 := BitVec.eq_of_toNat_eq hp
      exact h.endsIn_of_finish h8 (hf h8)
    · exact h.endsIn_of_err hp 0
  | succ n ih =>
    obtain hp | hp := hn
    · obtain ⟨t, ht⟩ := h.move (by omega)
      have hfinish : t.phase = 8 → t.finish = .consumed := fun h8 => ht.finish.trans (if_pos h8)
      have hnext := ih ht.underWay (ht.phase.imp_left fun hphase => by omega) hfinish
      rw [writeVerdict_decodeVerdict_congr ht.ends] at hnext
      exact ht.endsIn h.phase_ne_idle (fun h8 => by simp [h8] at hp) hnext
    · exact h.endsIn_of_err hp (n + 1)

theorem State.enter_underWay (s : State) : s.enter.UnderWay :=
  State.Passed.underWay (n := 1) (fun k hk => match k, hk with | 0, _ | 1, _ => trivial) rfl (by decide) (by decide)

/-- From CHK_HDR the walk is the one atomic DECODE (R100). -/
theorem State.enter_endsIn (s : State) : s.enter.EndsIn 8 (exec .decode s) := by
  have hwrite : exec .decode s = writeVerdict (decodeVerdict config s.enter) s.enter := by
    rw [decodeVerdict_congr (s := s) (t := s.enter) rfl rfl]
    exact writeVerdict_congr (s := s.enter) (t := s.clearStart) rfl _
  rw [hwrite]
  exact s.enter_underWay.endsIn (n := 7) (.inl rfl) fun h8 => by simp at h8

end Sys2Proof.Machine
end

section
/-! SUPPORT. The invariant (Safety.lean) as a transaction's progress: its clauses about phases 1 to 9 are those of
`State.UnderWay`, its clauses about the result registers are kept by the two result writes. -/

namespace Sys2Proof.Machine

theorem State.Inv.legal {s : State} (h : s.Inv) : s.res.Legal :=
  ⟨h.bodyRegisters, h.msgValid, h.errorConsumed, h.message⟩

theorem Results.legal_error (e : ErrorKind) (d : Nat) : (Results.error e d).Legal where
  bodyRegisters := freeBody_length d
  msgValid := Results.flagsAgree_error e d
  errorConsumed _ _ := rfl
  message h := by cases h

/-- A message may be written once the gates it passed are known (R140, R154, R172, R173). -/
theorem Results.legal_success {m : Message} (hmagic : m.header.magic = 0x20160905#32)
    (hlow : 1 ≤ m.header.bodyLength.toNat) (hhigh : m.header.bodyLength.toNat ≤ 255)
    (hconsumed : m.consumed.toNat = 33 + m.pfx.toNat) (hcls : m.cls = classify config m.header.command) (d : Nat) :
    (Results.success m d).Legal where
  bodyRegisters := bodyRegisters_length m.body d
  msgValid := Results.flagsAgree_success m d
  errorConsumed _ hstatus := absurd rfl hstatus
  message _ := ⟨hmagic, hlow, hhigh, hconsumed, hcls⟩

/-- The facts of a transaction's phases, read off the invariant's clauses. -/
theorem State.Inv.passed {s : State} (h : s.Inv) (h8 : s.phase.toNat ≤ 8) : s.Passed s.phase.toNat := by
  have hprefix : 6 ≤ s.phase.toNat → 33 ≤ s.inLen.toNat := fun h6 => by
    have hdeclared := h.declared (by omega) h8
    have hsize := h.size h6 h8
    omega
  intro k hk
  match k with
  | 0 | 1 | _ + 9 => trivial
  | 2 => exact h.header hk h8
  | 3 =>
    have hread := h.deserialized hk h8
    rw [State.deserHeader_inside (h.header (by omega) h8)] at hread
    exact (Option.some.inj hread).symm
  | 4 => exact h.magic hk h8
  | 5 => exact h.declared hk h8
  | 6 => exact h.size hk h8
  | 7 =>
    have hread := h.pfx hk h8
    rw [State.leU8_inside (hprefix (by omega))] at hread
    exact (Option.some.inj hread).symm
  | 8 =>
    have hread := h.body (BitVec.eq_of_toNat_eq (h8.antisymm hk))
    have hin := hprefix (by omega)
    refine ⟨?_, (State.rawBytes_of_readBytes hread).symm⟩
    rw [State.readBytes_eq] at hread
    split at hread
    · omega
    · cases hread

theorem State.Inv.underWay {s : State} (h : s.Inv) (hp : s.phase ≠ 0) : s.UnderWay where
  started := by bv_omega
  legal := h.phase
  passed := h.passed
  err := h.err

/-- A transaction under way meets the invariant as soon as its memory and its result registers do, and FINISH has the
values of the parts already run. -/
theorem State.UnderWay.inv {s : State} (h : s.UnderWay) (hmem : Memory.wf s.inBuf = true) (hres : s.res.Legal)
    (hfirst : s.phase ≠ 8 → s.finish = .consumed)
    (hconsumed : s.finish ≠ .consumed → s.tx.consumed.toNat = 33 + s.tx.pfx.toNat)
    (hcls : s.finish = .write → s.tx.cls = classify config s.tx.header.command) : s.Inv := by
  obtain ⟨hbody, hmsg, herr, hmessage⟩ := hres
  have hpassed : ∀ k, k ≤ s.phase.toNat → s.phase.toNat ≤ 8 → s.established k := fun k hk h8 => h.passed h8 k hk
  have hheader : 2 ≤ s.phase.toNat → s.phase.toNat ≤ 8 → 32 ≤ s.inLen.toNat := hpassed 2
  have hfinish : s.phase = 8 → s.Passed 8 := fun h8 => by simpa [h8] using h.passed (by simp [h8])
  exact {
    memory := hmem
    bodyRegisters := hbody
    phase := h.legal
    idle := fun h0 => absurd h0 h.phase_ne_idle
    finishFirst := hfirst
    msgValid := hmsg
    errorConsumed := herr
    message := hmessage
    header := hheader
    deserialized := fun h3 h8 => (State.deserHeader_inside (hheader (by omega) h8)).trans
      (congrArg some (hpassed 3 h3 h8).symm)
    magic := hpassed 4
    declared := hpassed 5
    size := hpassed 6
    pfx := fun h7 h8 => (State.leU8_inside ((h.passed h8).mono (by omega)).prefix_inside).trans
      (congrArg some (hpassed 7 h7 h8).symm)
    body := fun h8 => by
      obtain ⟨hin, hread⟩ := hfinish h8 8 le_rfl
      rw [State.readBytes_inside hin, hread]
    consumed := fun _ => hconsumed
    cls := fun _ => hcls
    err := h.err }

end Sys2Proof.Machine
end

section
/-! SUPPORT. Every step keeps the invariant, phase by phase. -/

namespace Sys2Proof.Machine

/-- DECODE keeps the invariant from any state with canonical memory: its result is an error, or a message that passed
every gate (R100, R157). -/
theorem inv_of_decode {s t : State} (hmem : Memory.wf s.inBuf = true) (h : exec .decode s = .next t) : t.Inv := by
  obtain ⟨m, hm, ht⟩ | ⟨e, -, ht⟩ := execDecode_cases s <;> cases h.symm.trans ht
  · obtain ⟨⟨⟨-, hmagic, -, hlow, hhigh⟩, -⟩, rfl⟩ := decodeVerdict_accept_iff.1 hm
    rw [← rawHeader_bodyLength] at hlow hhigh
    have hmagic' : s.rawHeader.magic = 0x20160905#32 :=
      BitVec.eq_of_toNat_eq ((rawHeader_magic s).trans hmagic)
    exact State.inv_of_idle rfl rfl rfl hmem
      (Results.legal_success hmagic' hlow hhigh (consumedLength_toNat _) rfl _)
  · exact State.inv_of_idle rfl rfl rfl hmem (Results.legal_error e _)

/-- In IDLE the HOST's operations keep the invariant: DECODE and reset write legal results, the others leave
the results and the local values as they are. -/
theorem State.Inv.after_hostExec {s t : State} {o : HostOp} (hinv : s.Inv) (hp : s.phase = 0)
    (h : hostExec o s = .next t) : t.Inv := by
  by_cases hd : o = .decode
  · subst hd
    exact inv_of_decode (s := { s with start := true }) hinv.memory h
  by_cases hr : o = .reset
  · subst hr
    cases h
    exact State.inv_of_idle rfl rfl rfl hinv.memory Results.legal_reset
  · obtain ⟨hframe, hmem, -⟩ := hostExec_frame h hd hr
    have hfinish := hinv.finishFirst (by rw [hp]; decide)
    rw [hframe]
    exact State.inv_of_idle hp hfinish (hinv.idle hp) (hmem hinv.memory) hinv.legal

/-- A step in IDLE keeps the invariant: a DECODE, a primitive run alone, or the HOST's move (logs 1 and 7). -/
theorem State.Inv.after_step_of_idle {s t : State} (hinv : s.Inv) (hp : s.phase = 0) (h : step s = .next t) :
    t.Inv := by
  have hfinish := hinv.finishFirst (by rw [hp]; decide)
  have htx := hinv.idle hp
  cases hs : s.start with
  | true => exact inv_of_decode hinv.memory (step_start hp hs ▸ h)
  | false =>
    cases hq : s.primReq with
    | some q =>
      rw [step_prim hp hs hq] at h
      obtain ⟨v, rfl⟩ := exec_decodePrim_next h
      exact State.inv_of_idle hp hfinish htx hinv.memory hinv.legal
    | none =>
      rw [step_host hp hs hq] at h
      obtain rfl | ⟨o, rest, -, ho⟩ := hostStep_next h
      · exact hinv
      · have hscript : State.Inv { s with script := rest } :=
          State.inv_of_idle hp hfinish htx hinv.memory hinv.legal
        exact hscript.after_hostExec hp ho

/-- A move inside the transaction keeps the invariant: no result register and no byte of the window is written. -/
theorem State.Inv.of_movesTo {s t : State} (hinv : s.Inv) (h8 : s.phase ≠ 8) (h : s.MovesTo t) : t.Inv := by
  have hbuf : t.inBuf = s.inBuf := (congrArg State.inBuf h.ends :)
  have hres : t.res = s.res := (congrArg State.res h.ends :)
  have hfinish : t.finish = .consumed := by
    rw [h.finish, hinv.finishFirst h8, ite_self]
  exact h.underWay.inv (hbuf ▸ hinv.memory) (hres ▸ hinv.legal) (fun _ => hfinish) (absurd hfinish)
    fun hwrite => by rw [hfinish] at hwrite; cases hwrite

/-- The three parts of FINISH keep the invariant: the count and the class are taken, then they are written with the
message (R172, R173, R102). -/
theorem State.Inv.after_step_of_finish {s t : State} (hinv : s.Inv) (hp : s.phase = 8) (h : step s = .next t) :
    t.Inv := by
  have hnat : s.phase.toNat = 8 := congrArg BitVec.toNat hp
  have hpassed : s.Passed 8 := hnat ▸ hinv.passed hnat.le
  have hcount : s.finish ≠ .consumed → s.tx.consumed.toNat = 33 + s.tx.pfx.toNat := hinv.consumed hp
  cases hf : s.finish with
  | consumed =>
    cases (step_consumedCalc hp hf).symm.trans h
    have hkept := hpassed.of_same (t := s.takeConsumed (consumedLength config s.tx.pfx)) rfl rfl rfl rfl rfl
    exact (hkept.underWay hnat (by decide) le_rfl).inv hinv.memory hinv.legal (absurd hp)
      (fun _ => consumedLength_toNat _) (fun hwrite => by cases hwrite)
  | classify =>
    cases (step_cmdClassify hp hf).symm.trans h
    have hkept := hpassed.of_same (t := s.takeClass (classify config s.tx.header.command)) rfl rfl rfl rfl rfl
    exact (hkept.underWay hnat (by decide) le_rfl).inv hinv.memory hinv.legal (absurd hp)
      (fun _ => hcount (by rw [hf]; nofun)) (fun _ => rfl)
  | write =>
    cases (step_successWrite hp hf).symm.trans h
    obtain ⟨hlow, hhigh⟩ : 1 ≤ s.tx.header.bodyLength.toNat ∧ s.tx.header.bodyLength.toNat ≤ 255 :=
      hpassed 6 (by omega)
    have hmagic : s.tx.header.magic = 0x20160905#32 := hpassed 4 (by omega)
    exact State.inv_of_idle rfl rfl rfl hinv.memory (Results.legal_success (m := s.tx.message) hmagic hlow hhigh
      (hcount (by rw [hf]; nofun)) (hinv.cls hp hf) _)

end Sys2Proof.Machine
end

section
/-! The statements of spec/43_length_validator_fsm.md. -/

namespace Sys2Proof.Machine

/-- Settles O5: in IDLE results are legal and nothing of a transaction is left; a transaction's phases establish their
facts one by one; FINISH and ERR end it with a legal result. -/
theorem everyStepKeepsTheInvariant : Obligations.EveryStepKeepsTheInvariant := by
  intro s t hinv h
  by_cases h0 : s.phase = 0
  · exact hinv.after_step_of_idle h0 h
  by_cases h8 : s.phase = 8
  · exact hinv.after_step_of_finish h8 h
  by_cases h9 : s.phase = 9
  · cases (step_errorWrite h9).symm.trans h
    exact State.inv_of_idle rfl rfl rfl hinv.memory (Results.legal_error _ _)
  · have hlegal := hinv.phase
    obtain ⟨u, hu⟩ := (hinv.underWay h0).move (by bv_omega)
    cases hu.step.symm.trans h
    exact hinv.of_movesTo h8 hu

/-- Settles O11: each row is the phase's operation on the pass or the fail side of its gate; FINISH and ERR are the two
result writes, and a reserved phase is BadPhase as it is in a step. -/
theorem transitionsFollowTheTable : Obligations.TransitionsFollowTheTable := by
  intro s
  have hchkHdr (hp : s.phase = 1) := transition_of_phase hp (by decide) rfl (exec_hdrAvailCheck s)
  have hmagic (hp : s.phase = 3) := transition_of_phase hp (by decide) rfl (exec_magicCheck s)
  have hchkBody (hp : s.phase = 4) := transition_of_phase hp (by decide) rfl (exec_bodyAvailCheck s)
  have hchkSize (hp : s.phase = 5) := transition_of_phase hp (by decide) rfl (exec_sizeCheck s)
  have hprefix (hp : s.phase = 6) := transition_of_phase hp (by decide) rfl (exec_prefixRead s)
  have hbody (hp : s.phase = 7) := transition_of_phase hp (by decide) rfl (exec_bodyExtract s)
  exact ⟨fun hp hs => ⟨_, (transition_of_idle hp).trans (if_pos hs), rfl⟩,
    fun hp hs => (transition_of_idle hp).trans (if_neg (by simp [hs])),
    fun hp hin => ⟨_, (hchkHdr hp).trans (if_neg hin.not_gt), rfl⟩,
    fun hp hshort => ⟨_, (hchkHdr hp).trans (if_pos hshort), rfl, rfl⟩,
    fun hp hin => ⟨_, transition_of_phase hp (by decide) rfl (exec_deserHeader_inside hin), rfl⟩,
    fun hp hequal => ⟨_, (hmagic hp).trans (if_pos hequal), rfl⟩,
    fun hp hother => ⟨_, (hmagic hp).trans (if_neg hother), rfl, rfl⟩,
    fun hp hin => ⟨_, (hchkBody hp).trans (if_neg hin.not_gt), rfl⟩,
    fun hp hshort => ⟨_, (hchkBody hp).trans (if_pos hshort), rfl, rfl⟩,
    fun hp hlow hhigh => ⟨_, (hchkSize hp).trans (if_neg (by omega)), rfl⟩,
    fun hp hsize => ⟨_, (hchkSize hp).trans (if_pos hsize), rfl, rfl⟩,
    fun hp hin => ⟨_, (hprefix hp).trans (if_neg hin.not_gt), rfl⟩,
    fun hp hshort => ⟨_, (hprefix hp).trans (if_pos hshort), rfl, rfl⟩,
    fun hp hin => ⟨_, (hbody hp).trans (if_neg hin.not_gt), rfl⟩,
    fun hp hpast => ⟨_, (hbody hp).trans (if_pos hpast), rfl, rfl⟩,
    fun hp => ⟨_, transition_of_finish hp, rfl, rfl⟩,
    fun hp => ⟨_, transition_of_err hp, rfl, showsError _ _⟩,
    transition_of_reserved_phase⟩

/-- Settles O15: the gate compares IN_LEN with the header's 32 bytes, and raising InsufficientData shows status 1. -/
theorem hdrAvailCheckTestsThirtyTwoBytes : Obligations.HdrAvailCheckTestsThirtyTwoBytes := fun s =>
  ⟨fun hin => (exec_hdrAvailCheck s).trans (if_neg hin.not_gt),
    fun hshort => raisesAndReports_of_raise ((exec_hdrAvailCheck s).trans (if_pos (Nat.lt_succ_of_le hshort)))⟩

/-- Settles O18: the gate compares IN_LEN with the header's and the declared bytes, on exact integers. -/
theorem bodyAvailCheckTestsDeclaredBytes : Obligations.BodyAvailCheckTestsDeclaredBytes := fun s =>
  ⟨fun hin => (exec_bodyAvailCheck s).trans (if_neg hin.not_gt),
    fun hshort => raisesAndReports_of_raise ((exec_bodyAvailCheck s).trans (if_pos hshort))⟩

/-- Settles O19: the wrap-around subtraction fails at 0 and from 256 on, and nowhere between. -/
theorem sizeCheckPassesOneToTwoFiftyFive : Obligations.SizeCheckPassesOneToTwoFiftyFive := fun s =>
  ⟨fun hlow hhigh => (exec_sizeCheck s).trans (if_neg (by omega)),
    fun hsize => raisesAndReports_of_raise ((exec_sizeCheck s).trans (if_pos hsize))⟩

/-- Settles O39: IDLE's transition takes the request, and from CHK_HDR eight more transitions at most are DECODE. -/
theorem phaseMachineIsDecodeInNineTransitions : Obligations.PhaseMachineIsDecodeInNineTransitions := by
  intro s hphase hstart
  have henter : transition s = .next s.enter := (transition_of_idle hphase).trans (if_pos hstart)
  exact (runToIdle_of_next henter (by simp)).trans s.enter_endsIn.transitions

/-- Settles O40: the walk from CHK_HDR as the machine's own steps. -/
theorem microStepsAreDecode : Obligations.MicroStepsAreDecode :=
  fun s _ _ => s.enter_endsIn.steps

end Sys2Proof.Machine
end

section
/-! SUPPORT. A packet past every gate before PREFIX (spec/44_body_and_command.md R170 to R174): the body its prefix
counts is in the window, and the HOST reads it, or is not, and DECODE stops; and what a DECODE has consumed (R172). -/

namespace Sys2Proof.Machine

/-- The last gate stops a body that is not all in the window (R171, R174). -/
theorem decodeVerdict_of_bodyPast {s : State} (hgates : s.passesLengthGates)
    (hpast : s.inLen.toNat < 33 + s.windowValue 32 1) : decodeVerdict config s = .raise .insufficientData := by
  obtain ⟨hheader, hmagic, hdeclared, hlow, hhigh⟩ := hgates
  rw [decodeVerdict_eq, if_neg hheader.not_gt, if_neg (not_not.2 hmagic), if_neg hdeclared.not_gt, if_neg (by omega),
    if_pos hpast]

/-- An accepted packet's body and consumed count follow its prefix, whatever length the header declares (R174). -/
theorem readReg_of_passes {s t : State} (ht : exec .decode s = .next t) (hgates : s.passesLengthGates)
    (hin : 33 + s.windowValue 32 1 ≤ s.inLen.toNat) :
    readReg t.res .resStatus = some 0 ∧ readReg t.res .resConsumed = some (33 + s.windowValue 32 1 : Int) ∧
      (∀ i, i < s.windowValue 32 1 →
        readReg t.res (.bData i) = some ((Memory.read s.inBuf (33 + i)).toNat : Int)) ∧
      ∀ i, s.windowValue 32 1 ≤ i → readReg t.res (.bData i) = none := by
  have hprefix : s.rawMessage.pfx.toNat = s.windowValue 32 1 := (windowValue_one s 32).symm
  have hlen : s.rawMessage.body.length = s.windowValue 32 1 := s.rawBytes_length 33 _
  have hconsumed : s.rawMessage.consumed.toNat = 33 + s.windowValue 32 1 := hprefix ▸ consumedLength_toNat _
  cases ht.symm.trans (exec_decode_of_accept (decodeVerdict_accept_iff.2 ⟨⟨hgates, hin⟩, rfl⟩))
  obtain ⟨⟨-, hstatus, -, hcount⟩, -, -, hbody, hrest, -⟩ :=
    showsMessage s.rawMessage s.draws s.rawMessage_body_length
  refine ⟨hstatus, hcount.trans (by rw [hconsumed]; rfl), fun i hi => ?_, fun i hi => hrest i (hprefix.trans_le hi)⟩
  rw [← hlen] at hi
  exact (hbody i hi).trans (by simp [State.rawMessage, assemble, State.rawBytes])

/-- DECODE consumes bytes of the window only, and never more than header, prefix and the longest body (R172). -/
theorem execDecode_consumed_le {s t : State} (ht : exec .decode s = .next t) :
    t.res.resValid = true ∧ t.res.resConsumed.toNat ≤ t.inLen.toNat ∧ t.res.resConsumed.toNat ≤ 288 := by
  obtain ⟨m, hm, ht'⟩ | ⟨e, -, ht'⟩ := execDecode_cases s
  · cases ht.symm.trans ht'
    obtain ⟨⟨-, hin⟩, rfl⟩ := decodeVerdict_accept_iff.1 hm
    have hcount : s.rawMessage.consumed.toNat = 33 + s.windowValue 32 1 :=
      windowValue_one s 32 ▸ consumedLength_toNat _
    have := s.windowValue_lt 32 1
    exact ⟨rfl, hcount.trans_le hin, hcount.trans_le (by omega)⟩
  · cases ht.symm.trans ht'
    exact ⟨rfl, Nat.zero_le _, Nat.zero_le _⟩

end Sys2Proof.Machine
end

section
/-! The statements of spec/44_body_and_command.md. -/

namespace Sys2Proof.Machine

/-- Settles O21: with the p bytes in the window the body is them as the window holds them, else the gate raises. -/
theorem bodyExtractCopiesTheWholeBody : Obligations.BodyExtractCopiesTheWholeBody := fun s =>
  ⟨fun hin => ⟨s.rawBytes 33 s.tx.pfx.toNat, (exec_bodyExtract s).trans (if_neg hin.not_gt), s.rawBytes_length 33 _,
      fun i _ => by simp [State.rawBytes]⟩,
    fun hpast => raisesAndReports_of_raise ((exec_bodyExtract s).trans (if_pos hpast))⟩

/-- Settles O37: a prefix below bodyLength - 1 counts bytes that the gate on bodyLength has found in the window; a
larger one counts bytes that no gate before the last has looked for. -/
theorem inconsistentPacketsFollowThePrefix : Obligations.InconsistentPacketsFollowThePrefix := by
  intro s hgates
  obtain ⟨t, ht, -⟩ := execDecode_resultUpdate s
  refine ⟨t, ht, fun hbelow => ?_, fun _ hin => ?_, fun _ hpast => ?_⟩
  · have hdeclared : 32 + s.windowValue 24 2 ≤ s.inLen.toNat := by
      obtain ⟨-, -, hdeclared, -, -⟩ := hgates
      exact hdeclared
    obtain ⟨hstatus, hconsumed, hbody, hrest⟩ := readReg_of_passes ht hgates (by omega)
    exact ⟨hstatus, hconsumed, by omega, hbody, hrest⟩
  · obtain ⟨hstatus, hconsumed, hbody, -⟩ := readReg_of_passes ht hgates hin
    exact ⟨hstatus, hconsumed, hbody⟩
  · exact showsError_of_raise ht (decodeVerdict_of_bodyPast hgates hpast)

/-- Settles O41: what a DECODE has consumed is in the window, so the ADVANCE after it drops just that. -/
theorem advanceAfterDecodeStaysInTheWindow : Obligations.AdvanceAfterDecodeStaysInTheWindow := by
  intro s
  obtain ⟨t, ht, -⟩ := execDecode_resultUpdate s
  obtain ⟨hvalid, hin, hmax⟩ := execDecode_consumed_le ht
  exact ⟨t, _, ht, hin, hmax, hostExec_advance_inside hvalid hin⟩

/-- Settles O20: with 33 bytes in the window the prefix is the one at offset 32, else the gate raises. -/
theorem prefixReadTakesTheByteAtThirtyTwo : Obligations.PrefixReadTakesTheByteAtThirtyTwo := fun s =>
  ⟨fun hin => (exec_prefixRead s).trans (if_neg hin.not_gt),
    fun hshort => raisesAndReports_of_raise ((exec_prefixRead s).trans (if_pos hshort))⟩

/-- Settles O22: the count is 33 + p as a number, and p is a byte. -/
theorem consumedCalcIsThirtyThreePlusPrefix : Obligations.ConsumedCalcIsThirtyThreePlusPrefix := by
  intro s
  have hcount := consumedLength_toNat s.tx.pfx
  have hprefix := s.tx.pfx.isLt
  exact ⟨consumedLength config s.tx.pfx, rfl, hcount, by omega, by omega⟩

/-- Settles O23: the class is the command's, which is 0, 1 or any other number. -/
theorem cmdClassifyNamesTheCommand : Obligations.CmdClassifyNamesTheCommand := by
  intro s
  refine ⟨classify config s.tx.header.command, rfl, fun hheartbeat => ?_, fun hecho => ?_, fun hunknown => ?_⟩
  · rw [classify_heartbeat hheartbeat]
    exact ⟨rfl, rfl⟩
  · rw [classify_echo hecho]
    exact ⟨rfl, rfl⟩
  · rw [classify_unknown hunknown]
    exact ⟨rfl, rfl⟩

end Sys2Proof.Machine
end

section
/-! SUPPORT. What each error is raised on (spec/60_exceptions.md R201 to R203): the causes as numbers of the window, each
with the gates before it passed (R205), and that DECODE reports an error exactly on its causes. -/

namespace Sys2Proof.Machine

/-- The causes of an error, no earlier gate failing. -/
def ErrorKind.CausedBy (s : State) : ErrorKind → Prop
  | .insufficientData =>
    s.inLen.toNat < 32 ∨ (s.windowValue 0 4 = 0x20160905 ∧
      (s.inLen.toNat < 32 + s.windowValue 24 2 ∨
        (1 ≤ s.windowValue 24 2 ∧ s.windowValue 24 2 ≤ 255 ∧ s.inLen.toNat < 33 + s.windowValue 32 1)))
  | .illegalMagic => 32 ≤ s.inLen.toNat ∧ s.windowValue 0 4 ≠ 0x20160905
  | .oversizedPackage =>
    32 ≤ s.inLen.toNat ∧ s.windowValue 0 4 = 0x20160905 ∧ 32 + s.windowValue 24 2 ≤ s.inLen.toNat ∧
      (s.windowValue 24 2 = 0 ∨ 256 ≤ s.windowValue 24 2)

theorem ErrorKind.CausedBy.verdict {s : State} {e : ErrorKind} (h : e.CausedBy s) :
    decodeVerdict config s = .raise e := by
  cases e with
  | illegalMagic =>
    obtain ⟨hheader, hmagic⟩ := h
    exact decodeVerdict_of_wrongMagic hheader hmagic
  | oversizedPackage =>
    obtain ⟨hheader, hmagic, hbody, hsize⟩ := h
    exact decodeVerdict_of_oversized hheader hmagic hbody hsize
  | insufficientData =>
    obtain hshort | hheader := Nat.lt_or_ge s.inLen.toNat 32
    · exact decodeVerdict_of_headerShort hshort
    obtain hshort | ⟨hmagic, hrest⟩ := h
    · exact absurd hshort hheader.not_gt
    obtain hbody | hbody := Nat.lt_or_ge s.inLen.toNat (32 + s.windowValue 24 2)
    · exact decodeVerdict_of_bodyShort hheader hmagic hbody
    obtain hshort | ⟨hlow, hhigh, hpast⟩ := hrest
    · exact absurd hshort hbody.not_gt
    · exact decodeVerdict_of_bodyPast ⟨hheader, hmagic, hbody, hlow, hhigh⟩ hpast

/-- DECODE raises an error on its causes alone: each row of R101 has found the rows before it passed. -/
theorem decodeVerdict_raise_iff {s : State} {e : ErrorKind} : decodeVerdict config s = .raise e ↔ e.CausedBy s := by
  refine ⟨fun h => ?_, ErrorKind.CausedBy.verdict⟩
  rw [decodeVerdict_eq] at h
  repeat' split at h
  all_goals cases h
  next hshort => exact .inl hshort
  next hheader hmagic => exact ⟨Nat.not_lt.1 hheader, hmagic⟩
  next hmagic hbody => exact .inr ⟨not_not.1 hmagic, .inl hbody⟩
  next hheader hmagic hbody hsize =>
    exact ⟨Nat.not_lt.1 hheader, not_not.1 hmagic, Nat.not_lt.1 hbody, hsize⟩
  next hmagic _ hsize hpast => exact .inr ⟨not_not.1 hmagic, .inr ⟨by omega, by omega, hpast⟩⟩

theorem showsError_iff_causedBy {s t : State} (ht : exec .decode s = .next t) (e : ErrorKind) :
    ShowsError t.res e.status.toNat ↔ e.CausedBy s := by
  refine ⟨fun ⟨_, hstatus, _⟩ => ?_, fun h => showsError_of_raise ht h.verdict⟩
  exact decodeVerdict_raise_iff.1 (decodeVerdict_of_status ht hstatus)

theorem readsOk_iff_passes {s t : State} (ht : exec .decode s = .next t) :
    readReg t.res .resStatus = some 0 ↔ s.passesLengthGates ∧ 33 + s.windowValue 32 1 ≤ s.inLen.toNat := by
  refine ⟨fun hok => ?_, fun ⟨hgates, hin⟩ => (readReg_of_passes ht hgates hin).1⟩
  obtain ⟨m, hm, -⟩ := decodeVerdict_of_ok ht hok
  exact (decodeVerdict_accept_iff.1 hm).1

end Sys2Proof.Machine
end

section
/-! SUPPORT. The record of ReadInvalid (spec/60_exceptions.md R210; log 27): what a step does to it, said once, and runs
at whose end it is not set. -/

namespace Sys2Proof.Machine

theorem LocalUpdate.readInvalid_eq {s t : State} (h : LocalUpdate s t) : t.readInvalid = s.readInvalid := by
  cases h <;> rfl

theorem ResultUpdate.readInvalid_eq {s t : State} (h : ResultUpdate s t) : t.readInvalid = s.readInvalid := by
  cases h <;> rfl

theorem exec_readInvalid_eq {i : Instr} {s t : State} (h : exec i s = .next t) : t.readInvalid = s.readInvalid := by
  obtain hlocal | ⟨-, hresult⟩ := exec_next h
  · exact hlocal.readInvalid_eq
  · exact hresult.readInvalid_eq

/-- The HOST's two reads that find no value: of `RES_CONSUMED` by an ADVANCE before any result, and of the register that
an EXPECT names (R36, R90). -/
def HostOp.ReadsNoValue (r : Results) (o : HostOp) : Prop :=
  (o = .advance ∧ r.resValid = false) ∨ ∃ x v, o = .expect x v ∧ readReg r x = none

/-- A HOST move leaves the record, or it has read no value and sets it. -/
theorem hostExec_readInvalid_cases {o : HostOp} {s t : State} (h : hostExec o s = .next t) :
    t.readInvalid = s.readInvalid ∨ (t.readInvalid = true ∧ o.ReadsNoValue s.res) := by
  cases o with
  | load bytes | append bytes =>
    simp only [hostExec, hostLoad, hostAppend, present] at h
    split at h <;> cases h
    exact .inl rfl
  | decode => exact .inl (exec_readInvalid_eq (i := .decode) (s := { s with start := true }) h)
  | drop | reset =>
    cases h
    exact .inl rfl
  | advance =>
    cases hvalid : s.res.resValid with
    | false =>
      cases (hostExec_advance_of_no_result hvalid).symm.trans h
      exact .inr ⟨rfl, .inl ⟨rfl, hvalid⟩⟩
    | true =>
      obtain hpast | hin := Nat.lt_or_ge s.inLen.toNat s.res.resConsumed.toNat
      · cases (hostExec_advance_past hvalid hpast).symm.trans h
        exact .inl rfl
      · cases (hostExec_advance_inside hvalid hin).symm.trans h
        exact .inl rfl
  | expect x v =>
    cases hread : readReg s.res x with
    | none =>
      cases (hostExec_expect_none hread v).symm.trans h
      exact .inr ⟨rfl, .inr ⟨x, v, rfl, hread⟩⟩
    | some w =>
      simp only [hostExec, hostExpect, hread] at h
      split at h <;> cases h
      exact .inl rfl

/-- Everything a step can do to the record: leave it, or set it by the HOST's read of no value. -/
theorem step_readInvalid_cases {s t : State} (h : step s = .next t) :
    t.readInvalid = s.readInvalid ∨
      (t.readInvalid = true ∧ fetch s = none ∧ ∃ o, s.script.head? = some o ∧ o.ReadsNoValue s.res) := by
  obtain ⟨i, hi⟩ | ⟨hfetch, hhost⟩ := step_next h
  · exact .inl (exec_readInvalid_eq hi)
  obtain rfl | ⟨o, rest, hscript, ho⟩ := hostStep_next hhost
  · exact .inl rfl
  obtain hkept | ⟨hset, hread⟩ := hostExec_readInvalid_cases ho
  · exact .inl hkept
  · exact .inr ⟨hset, hfetch, o, by rw [hscript]; rfl, hread⟩

theorem step_keeps_readInvalid {s t : State} (h : step s = .next t) (hs : s.readInvalid = true) :
    t.readInvalid = true := by
  obtain hkept | ⟨hset, -⟩ := step_readInvalid_cases h
  · exact hkept.trans hs
  · exact hset

/-- A safe run is a first step and a safe run from there. -/
theorem safeRun_succ {k : Nat} {s : State} : SafeRun (k + 1) s ↔ ∃ u, step s = .next u ∧ SafeRun k u := by
  constructor
  · rintro ⟨t, hrun, ht⟩
    cases hstep : step s with
    | next u => exact ⟨u, rfl, t, (run_next hstep).symm.trans hrun, ht⟩
    | fault r | refused r => simp [Host.Core.run, core, hstep] at hrun
  · rintro ⟨u, hstep, t, hrun, ht⟩
    exact ⟨t, (run_next hstep).trans hrun, ht⟩

theorem SafeRun.start {k : Nat} {s : State} (h : SafeRun k s) : s.readInvalid = false := by
  induction k generalizing s with
  | zero =>
    obtain ⟨t, hrun, ht⟩ := h
    cases hrun
    exact ht
  | succ k ih =>
    obtain ⟨u, hstep, hu⟩ := safeRun_succ.1 h
    refine Bool.eq_false_iff.2 fun hs => ?_
    exact Bool.eq_false_iff.1 (ih hu) (step_keeps_readInvalid hstep hs)

theorem SafeRun.of_le {j k : Nat} {s : State} (h : SafeRun k s) (hjk : j ≤ k) : SafeRun j s := by
  induction j generalizing k s with
  | zero => exact ⟨s, rfl, h.start⟩
  | succ j ih =>
    obtain ⟨k, rfl⟩ := Nat.exists_eq_add_of_le' (Nat.lt_of_lt_of_le j.succ_pos hjk)
    obtain ⟨u, hstep, hu⟩ := safeRun_succ.1 h
    exact safeRun_succ.2 ⟨u, hstep, ih hu (Nat.le_of_succ_le_succ hjk)⟩

end Sys2Proof.Machine
end

section
/-! The statements of spec/60_exceptions.md. -/

namespace Sys2Proof.Machine

/-- Settles O28: the status shown is the verdict's, and the verdict is an error exactly on that error's causes. -/
theorem decodeReportsTheFirstFailingGate : Obligations.DecodeReportsTheFirstFailingGate := by
  intro s
  obtain ⟨t, ht, -⟩ := execDecode_resultUpdate s
  have hcause := showsError_iff_causedBy ht
  exact ⟨t, ht, hcause .insufficientData, hcause .illegalMagic, hcause .oversizedPackage, readsOk_iff_passes ht⟩

/-- Settles O47: a step leaves the record or sets it by a read of no value, so a record at the start or on the way of a
run still stands at its end. -/
theorem recordedReadInvalidIsNeverCleared : Obligations.RecordedReadInvalidIsNeverCleared := by
  refine ⟨fun i s t => exec_readInvalid_eq, fun s t => step_keeps_readInvalid, fun s t hstep hs ht => ?_,
    fun k s h => ⟨h.start, fun j => h.of_le⟩⟩
  obtain hkept | ⟨-, hfetch, o, hscript, ⟨rfl, hvalid⟩ | ⟨r, v, rfl, hread⟩⟩ := step_readInvalid_cases hstep
  · rw [hkept, hs] at ht
    cases ht
  · exact ⟨hfetch, .inl ⟨hscript, hvalid⟩⟩
  · exact ⟨hfetch, .inr ⟨r, v, hscript, hread⟩⟩

end Sys2Proof.Machine
end

section
/-! The statement of spec/70_reset_and_hazards.md. -/

namespace Sys2Proof.Machine

/-- The HOST's reset from the side of its frame (R230): it sets the block's own state, and leaves the window, the script,
the count of draws and the record of ReadInvalid as they stand. -/
theorem hostExec_reset (s : State) :
    hostExec .reset s = .next { s with
      start := false, primReq := none, primOut := 0, res := .reset, phase := 0, finish := .consumed, tx := .initial } :=
  rfl

/-- Settles O3: what reset sets has the reset state's values, so every result register reads as there, and the rest is
the frame. -/
theorem hostResetGivesTheResetState : Obligations.HostResetGivesTheResetState :=
  fun s => ⟨_, hostExec_reset s, rfl, fun _ => rfl, rfl, rfl, rfl, rfl, fun _ => rfl, rfl, rfl⟩

end Sys2Proof.Machine
end
